-- ==== Sys2Proof/Word.lean ====
section
/-! DEFINITION. The word types of the engine (spec/00_scope.md R7, R9; spec/30_encoding.md R70, R71). -/

namespace Sys2Proof

/-- A byte: an integer in [0, 256) (R10). -/
abbrev Byte := BitVec 8

/-- A 32-bit value: a control register, a command word or the data of a host access (R7, R13). -/
abbrev Word := BitVec 32

/-- A big-number value: an integer in [0, 2^256) (R7, R18). -/
abbrev Big := BitVec 256

/-- A byte offset inside the 8192-byte register block, 0x0000 to 0x1FFF (R50 a). -/
abbrev Offset := BitVec 13

/-- A register index: a 4-bit unsigned index i that names B[i] (R71). -/
abbrev BReg := Fin 16

end Sys2Proof
end

