-- ==== Sys2Proof/Syntax.lean ====
section
/-! DEFINITION. The commands: one constructor per row of spec/opcode_table.json, with the register fields the
row uses, in field order RD, RS1, RS2, RS3 (spec/30_encoding.md R72, R78). -/

namespace Sys2Proof

inductive Instr where
  /-- MODEXP Bd, Bb, Be, Bm (R88) -/
  | modexp (rd rs1 rs2 rs3 : BReg)
  /-- MODINV Bd, Bg, Bp (R89) -/
  | modinv (rd rs1 rs2 : BReg)
  /-- MODSQRT Bd, Bg, Bp (R90) -/
  | modsqrt (rd rs1 rs2 : BReg)
  /-- CURVESET Bp, Ba, Bb (R103) -/
  | curveset (rs1 rs2 rs3 : BReg)
  /-- PADD Pd, Ps, Pt (R104) -/
  | padd (rd rs1 rs2 : BReg)
  /-- PDBL Pd, Ps (R105) -/
  | pdbl (rd rs1 : BReg)
  /-- PMUL Pd, Ps, Bk (R106) -/
  | pmul (rd rs1 rs2 : BReg)
  /-- YFROMX Bd, Bx (R107) -/
  | yfromx (rd rs1 : BReg)
  /-- I2B Bn (R125) -/
  | i2b (rs1 : BReg)
  /-- B2I Bd (R126) -/
  | b2i (rd : BReg)
  /-- B85E (R127) -/
  | b85e
  /-- B85D (R128) -/
  | b85d
  /-- A85E (R134) -/
  | a85e
  /-- A85D (R135) -/
  | a85d
  /-- U8E (R131) -/
  | u8e
  /-- U8D (R132) -/
  | u8d
  deriving DecidableEq, Repr

/-- The names of the opcode map (R72). -/
inductive Opcode where
  | modexp | modinv | modsqrt
  | curveset | padd | pdbl | pmul | yfromx
  | i2b | b2i
  | b85e | b85d | a85e | a85d
  | u8e | u8d
  deriving DecidableEq, Repr

/-- The row of the opcode map a command belongs to. -/
def Instr.opcode : Instr → Opcode
  | .modexp _ _ _ _ => .modexp
  | .modinv _ _ _ => .modinv
  | .modsqrt _ _ _ => .modsqrt
  | .curveset _ _ _ => .curveset
  | .padd _ _ _ => .padd
  | .pdbl _ _ => .pdbl
  | .pmul _ _ _ => .pmul
  | .yfromx _ _ => .yfromx
  | .i2b _ => .i2b
  | .b2i _ => .b2i
  | .b85e => .b85e
  | .b85d => .b85d
  | .a85e => .a85e
  | .a85d => .a85d
  | .u8e => .u8e
  | .u8d => .u8d

end Sys2Proof
end

