-- ==== Sys2Proof/WellFormed.lean ====
section
/-! DEFINITION. Which commands are well formed: every point field names an even register
(spec/10_state.md R19; spec/30_encoding.md R75). The index ranges, the unused fields and RSV need no check, since
Instr has no place for a bad one. -/

namespace Sys2Proof

/-- A point operand names an even register (R19). -/
def BReg.isPoint (j : BReg) : Bool := j.val % 2 == 0

/-- The point fields of a command: the fields the row of R72 marks "pt". "The scalar field RS2 of PMUL is not a
point field" (R75). -/
def Instr.pointFields : Instr → List BReg
  | .modexp _ _ _ _ => []
  | .modinv _ _ _ => []
  | .modsqrt _ _ _ => []
  | .curveset _ _ _ => []
  | .padd rd rs1 rs2 => [rd, rs1, rs2]
  | .pdbl rd rs1 => [rd, rs1]
  | .pmul rd rs1 _ => [rd, rs1]
  | .yfromx _ _ => []
  | .i2b _ => []
  | .b2i _ => []
  | .b85e => []
  | .b85d => []
  | .a85e => []
  | .a85d => []
  | .u8e => []
  | .u8d => []

/-- A command is well formed when each of its point fields is even (R75). -/
def Instr.wellFormed (i : Instr) : Bool := i.pointFields.all BReg.isPoint

end Sys2Proof
end

