-- ==== Sys2Proof/Decode.lean ====
section
/-! DEFINITION. The command word: its fields, the opcode map, the decoder and the encoder
(spec/30_encoding.md R70 to R76, spec/opcode_table.json). -/

namespace Sys2Proof

/-! ## Fields (R70) -/

/-- OPC, bits [7:0]. -/
def opcField (w : Word) : BitVec 8 := w.extractLsb' 0 8
/-- RD, bits [11:8]. -/
def rdField (w : Word) : BReg := (w.extractLsb' 8 4).toFin
/-- RS1, bits [15:12]. -/
def rs1Field (w : Word) : BReg := (w.extractLsb' 12 4).toFin
/-- RS2, bits [19:16]. -/
def rs2Field (w : Word) : BReg := (w.extractLsb' 16 4).toFin
/-- RS3, bits [23:20]. -/
def rs3Field (w : Word) : BReg := (w.extractLsb' 20 4).toFin
/-- RSV, bits [31:24]. -/
def rsvField (w : Word) : BitVec 8 := w.extractLsb' 24 8

/-! ## The opcode map (R72) -/

/-- The OPC column of R72. -/
def Opcode.code : Opcode → BitVec 8
  | .modexp => 0x01#8
  | .modinv => 0x02#8
  | .modsqrt => 0x03#8
  | .curveset => 0x10#8
  | .padd => 0x11#8
  | .pdbl => 0x12#8
  | .pmul => 0x13#8
  | .yfromx => 0x14#8
  | .i2b => 0x20#8
  | .b2i => 0x21#8
  | .b85e => 0x30#8
  | .b85d => 0x31#8
  | .a85e => 0x32#8
  | .a85d => 0x33#8
  | .u8e => 0x40#8
  | .u8d => 0x41#8

/-- The rows of R72, in its order. -/
def Opcode.all : List Opcode :=
  [.modexp, .modinv, .modsqrt, .curveset, .padd, .pdbl, .pmul, .yfromx,
   .i2b, .b2i, .b85e, .b85d, .a85e, .a85d, .u8e, .u8d]

/-- The row whose OPC a byte is; none for "every OPC value not in rule R72" (R73). -/
def Opcode.ofCode (b : BitVec 8) : Option Opcode := Opcode.all.find? (fun o => o.code == b)

/-- What a row of R72 says of a register field: "—" an unused field, a plain register, or "pt" a point field. -/
inductive FieldUse where
  | unused
  | reg
  | point
  deriving DecidableEq, Repr

/-- The four field columns of a row of R72. -/
structure FieldUses where
  rd : FieldUse
  rs1 : FieldUse
  rs2 : FieldUse
  rs3 : FieldUse
  deriving DecidableEq, Repr

/-- The columns RD, RS1, RS2 and RS3 of R72. -/
def Opcode.uses : Opcode → FieldUses
  | .modexp => ⟨.reg, .reg, .reg, .reg⟩
  | .modinv => ⟨.reg, .reg, .reg, .unused⟩
  | .modsqrt => ⟨.reg, .reg, .reg, .unused⟩
  | .curveset => ⟨.unused, .reg, .reg, .reg⟩
  | .padd => ⟨.point, .point, .point, .unused⟩
  | .pdbl => ⟨.point, .point, .unused, .unused⟩
  | .pmul => ⟨.point, .point, .reg, .unused⟩
  | .yfromx => ⟨.reg, .reg, .unused, .unused⟩
  | .i2b => ⟨.unused, .reg, .unused, .unused⟩
  | .b2i => ⟨.reg, .unused, .unused, .unused⟩
  | .b85e => ⟨.unused, .unused, .unused, .unused⟩
  | .b85d => ⟨.unused, .unused, .unused, .unused⟩
  | .a85e => ⟨.unused, .unused, .unused, .unused⟩
  | .a85d => ⟨.unused, .unused, .unused, .unused⟩
  | .u8e => ⟨.unused, .unused, .unused, .unused⟩
  | .u8d => ⟨.unused, .unused, .unused, .unused⟩

/-- A field passes the must-be-zero check of R74. -/
def FieldUse.zeroOk (u : FieldUse) (r : BReg) : Bool := u != .unused || r == 0

/-- A field passes the point-parity check of R75. -/
def FieldUse.parityOk (u : FieldUse) (r : BReg) : Bool := u != .point || r.isPoint

/-- R74: "RSV ≠ 0 or when any field the opcode's row of rule R72 marks "—" is not 0" fails this. -/
def zeroFieldsOk (o : Opcode) (w : Word) : Bool :=
  rsvField w == 0#8 && o.uses.rd.zeroOk (rdField w) && o.uses.rs1.zeroOk (rs1Field w) &&
    o.uses.rs2.zeroOk (rs2Field w) && o.uses.rs3.zeroOk (rs3Field w)

/-- R75: "a field the row of rule R72 marks "pt" holds an odd index" fails this. -/
def pointFieldsOk (o : Opcode) (w : Word) : Bool :=
  o.uses.rd.parityOk (rdField w) && o.uses.rs1.parityOk (rs1Field w) &&
    o.uses.rs2.parityOk (rs2Field w) && o.uses.rs3.parityOk (rs3Field w)

/-! ## The decoder -/

/-- Why a word is no legal, well-formed command (R73, R74, R75). -/
inductive DecodeError where
  /-- OPC not in the opcode map (R73) -/
  | illegalOpcode
  /-- RSV or an unused field is not 0 (R74) -/
  | nonzeroField
  /-- a point field holds an odd index (R75) -/
  | oddPoint
  deriving DecidableEq, Repr

/-- The command a row builds from its fields. -/
def Opcode.build (o : Opcode) (rd rs1 rs2 rs3 : BReg) : Instr :=
  match o with
  | .modexp => .modexp rd rs1 rs2 rs3
  | .modinv => .modinv rd rs1 rs2
  | .modsqrt => .modsqrt rd rs1 rs2
  | .curveset => .curveset rs1 rs2 rs3
  | .padd => .padd rd rs1 rs2
  | .pdbl => .pdbl rd rs1
  | .pmul => .pmul rd rs1 rs2
  | .yfromx => .yfromx rd rs1
  | .i2b => .i2b rs1
  | .b2i => .b2i rd
  | .b85e => .b85e
  | .b85d => .b85d
  | .a85e => .a85e
  | .a85d => .a85d
  | .u8e => .u8e
  | .u8d => .u8d

/-- The decoder, in the order of R76: OPC first, then R74, then R75. -/
def decode (w : Word) : Except DecodeError Instr :=
  match Opcode.ofCode (opcField w) with
  | none => .error .illegalOpcode
  | some o =>
    if zeroFieldsOk o w then
      if pointFieldsOk o w then .ok (o.build (rdField w) (rs1Field w) (rs2Field w) (rs3Field w))
      else .error .oddPoint
    else .error .nonzeroField

/-- The decoder on a word numbered as spec/opcode_table.json numbers it: a command is one 32-bit value, bit 0 its
least significant bit (R51, R70); the bits from nbits up are 0. -/
def decodeTableWord (nbits w : Nat) : Option Instr :=
  match decode (BitVec.ofNat 32 (w % 2 ^ nbits)) with
  | .ok i => some i
  | .error _ => none

/-! ## The encoder -/

/-- A register index as the 4 bits of a field (R71). -/
def BReg.bits (r : BReg) : BitVec 4 := BitVec.ofFin r

/-- The pattern form of R70: `00000000 cccc bbbb aaaa dddd oooooooo` with o = OPC, d = RD, a = RS1, b = RS2, c = RS3. -/
def packWord (o : BitVec 8) (rd rs1 rs2 rs3 : BReg) : Word :=
  0#8 ++ rs3.bits ++ rs2.bits ++ rs1.bits ++ rd.bits ++ o

/-- The encoding of a command (R70, R78); an unused field is 0 (R74). -/
def encode (i : Instr) : Word :=
  match i with
  | .modexp rd rs1 rs2 rs3 => packWord 0x01#8 rd rs1 rs2 rs3
  | .modinv rd rs1 rs2 => packWord 0x02#8 rd rs1 rs2 0
  | .modsqrt rd rs1 rs2 => packWord 0x03#8 rd rs1 rs2 0
  | .curveset rs1 rs2 rs3 => packWord 0x10#8 0 rs1 rs2 rs3
  | .padd rd rs1 rs2 => packWord 0x11#8 rd rs1 rs2 0
  | .pdbl rd rs1 => packWord 0x12#8 rd rs1 0 0
  | .pmul rd rs1 rs2 => packWord 0x13#8 rd rs1 rs2 0
  | .yfromx rd rs1 => packWord 0x14#8 rd rs1 0 0
  | .i2b rs1 => packWord 0x20#8 0 rs1 0 0
  | .b2i rd => packWord 0x21#8 rd 0 0 0
  | .b85e => packWord 0x30#8 0 0 0 0
  | .b85d => packWord 0x31#8 0 0 0 0
  | .a85e => packWord 0x32#8 0 0 0 0
  | .a85d => packWord 0x33#8 0 0 0 0
  | .u8e => packWord 0x40#8 0 0 0 0
  | .u8d => packWord 0x41#8 0 0 0 0

/-! ## The mask and match columns of spec/opcode_table.json (R76) -/

/-- The "mask" column of a row. -/
def Opcode.mask : Opcode → Word
  | .modexp => 0xFF0000FF#32
  | .modinv => 0xFFF000FF#32
  | .modsqrt => 0xFFF000FF#32
  | .curveset => 0xFF000FFF#32
  | .padd => 0xFFF111FF#32
  | .pdbl => 0xFFFF11FF#32
  | .pmul => 0xFFF011FF#32
  | .yfromx => 0xFFFF00FF#32
  | .i2b => 0xFFFF0FFF#32
  | .b2i => 0xFFFFF0FF#32
  | .b85e => 0xFFFFFFFF#32
  | .b85d => 0xFFFFFFFF#32
  | .a85e => 0xFFFFFFFF#32
  | .a85d => 0xFFFFFFFF#32
  | .u8e => 0xFFFFFFFF#32
  | .u8d => 0xFFFFFFFF#32

/-- The "match" column of a row. -/
def Opcode.matchWord : Opcode → Word
  | .modexp => 0x00000001#32
  | .modinv => 0x00000002#32
  | .modsqrt => 0x00000003#32
  | .curveset => 0x00000010#32
  | .padd => 0x00000011#32
  | .pdbl => 0x00000012#32
  | .pmul => 0x00000013#32
  | .yfromx => 0x00000014#32
  | .i2b => 0x00000020#32
  | .b2i => 0x00000021#32
  | .b85e => 0x00000030#32
  | .b85d => 0x00000031#32
  | .a85e => 0x00000032#32
  | .a85d => 0x00000033#32
  | .u8e => 0x00000040#32
  | .u8d => 0x00000041#32

/-- "A word is therefore a legal, well-formed command exactly when `(word AND mask) = match` for the row" (R76). -/
def matchesTable (w : Word) : Bool := Opcode.all.any (fun o => w &&& o.mask == o.matchWord)

end Sys2Proof
end

