-- ==== Sys2Proof/Config.lean ====
section
/-! DEFINITION. What the implementation fixes, and the parameters the spec leaves open
(spec/00_scope.md R6; spec/92_eei_decisions.md D2, D5, D6, D23, D28, D44, D47). -/

namespace Sys2Proof.Config

/-- BMEM_SIZE, the bytes of the byte buffer (R6, R23). -/
def bmemSize : Nat := 4096

/-- The size in bytes of the register block in the host's address space (R6, R50 a). -/
def blockSize : Nat := 8192

/-- INFO, "the constant 0x010C1008 at all times" (R27). -/
def infoWord : Word := 0x010C1008#32

/-- The reset value of SQRT_ITER_MAX (R6, R44). -/
def sqrtIterMaxReset : BitVec 16 := 64#16

/-- BASE, the address of the register block in the host's address space: OPEN (R6, I6).
DESIGN CHOICE (log 8): an opaque constant without a body; safe. -/
opaque base : Nat

/-- ENTROPY: the n-th value of the entropy source beyond the draws laid out in the state: OPEN, under no law
(R60, D47, I4). DESIGN CHOICE (log 3): an opaque function without a body; safe. -/
opaque entropyDraw : Nat → Nat

/-- SAFE_ALPHABET as the platform supplies it: OPEN (R6, R124, D23, I5). DESIGN CHOICE (log 7): an opaque list
without a body, which Machine/Alphabet.lean restricts to the alphabets R124 allows; safe. -/
opaque safeAlphabetParam : List Byte

end Sys2Proof.Config
end

