-- ==== Sys2Proof/Machine/State.lean ====
section
/-! DEFINITION. The state of the engine as plain data, and the power-on state
(spec/10_state.md R17 to R44; spec/70_reset_and_hazards.md R160). -/

namespace Sys2Proof.Machine

/-- The engine's phase: STATUS.BUSY is 1 exactly in `busy` (R40). -/
inductive Phase where
  | idle
  | busy
  deriving DecidableEq, Repr

/-- The error codes of R136, by name; "Codes 11 to 255 are never written". Their numbers are in Flags.lean. -/
inductive ErrCode where
  | none
  | illegalOpcode
  | operand
  | modulus
  | noSqrt
  | singular
  | noCurve
  | sqrtIter
  | encoding
  | bounds
  | width
  deriving DecidableEq, Repr

/-- How many bytes a host access transfers: only a 32-bit access is well-formed (R52). -/
inductive AccessSize where
  | byte
  | halfword
  | word
  deriving DecidableEq, Repr

/-- What can happen to the engine next (R17, R59). DESIGN CHOICE (log 1): the interleaving is plain data. -/
inductive Event where
  /-- a host read at a byte offset of the register block (R13, R52) -/
  | read (size : AccessSize) (off : Offset)
  /-- a host write of a value at a byte offset of the register block (R13, R52) -/
  | write (size : AccessSize) (off : Offset) (data : Word)
  /-- the engine's turn: its completion step if it is BUSY (R40 b) -/
  | engine
  /-- power is applied (R160; log 14) -/
  | powerOn
  deriving DecidableEq, Repr

/-- The entropy source (R60): the draws already laid out, and how many draws were made. DESIGN CHOICE (log 3): past
the supply a draw is the opaque Config.entropyDraw at the counter. -/
structure Entropy where
  supply : List Nat
  drawn : Nat
  deriving DecidableEq, Repr

/-- BMEM's written bytes (R23), strictly rising by address; an unlisted byte has no value (R44, I1; log 6). -/
abbrev Memory := List Host.Cell

/-- The state (R18 to R42). Every field but `agenda` and `entropy` is the spec's. -/
structure State where
  /-- B0..B15 (R18) -/
  regs : Vector Big 16
  /-- CURVE_P (R21) -/
  curveP : Big
  /-- CURVE_A (R21) -/
  curveA : Big
  /-- CURVE_B (R21) -/
  curveB : Big
  /-- CURVE_VALID (R22) -/
  curveValid : Bool
  /-- BMEM (R23) -/
  bmem : Memory
  /-- CTRL.IE (R28) -/
  ie : Bool
  /-- the phase, STATUS.BUSY (R40, R41) -/
  phase : Phase
  /-- STATUS.DONE (R29) -/
  done : Bool
  /-- STATUS.OVR (R29) -/
  ovr : Bool
  /-- STATUS.BUSERR (R29) -/
  buserr : Bool
  /-- STATUS.ERRCODE (R29, R136) -/
  errcode : ErrCode
  /-- CMD (R30) -/
  cmd : Word
  /-- SRC_ADDR (R31) -/
  srcAddr : Word
  /-- SRC_LEN (R32) -/
  srcLen : Word
  /-- DST_ADDR (R33) -/
  dstAddr : Word
  /-- OUT_LEN (R34) -/
  outLen : Word
  /-- SQRT_ITER_MAX (R35) -/
  sqrtIterMax : BitVec 16
  /-- SQRT_ITER_USED (R36) -/
  sqrtIterUsed : BitVec 16
  /-- the value the last host read returned: the host read data output (R42, R52; log 9) -/
  readData : Word
  /-- the model's own: the events still to reach the engine (R59; log 1) -/
  agenda : List Event
  /-- the model's own: the entropy source (R60; log 3) -/
  entropy : Entropy
  deriving DecidableEq, Repr

/-- Why a step can stop. -/
inductive Fault where
  /-- Raised by a codec command that reads its input (R133) and by a host read of the BMEM window (R39) when the
  byte at `addr` was never written since power-on: "a read of it (by the host or as a command operand) is a fault
  of the model, never a value" (R44, I1; log 6). Safe: the hardware goes on with some unspecified byte. -/
  | unwrittenByte (addr : Nat)
  deriving DecidableEq, Repr

/-- Why a command has no meaning. -/
inductive Refusal where
  /-- Raised by `exec` for a command that has no meaning yet, by its mnemonic. No command is left so. Safe. -/
  | notModelled (mnemonic : String)
  deriving DecidableEq, Repr

/-- The state after power-on reset: the "after power-on" column of R44. B0..B15 are "unspecified" there;
DESIGN CHOICE (log 5): 0, unsafe. The read data output, which R44 does not list, is 0: DESIGN CHOICE (log 9), unsafe.
The agenda and the entropy supply are empty: DESIGN CHOICE (log 1, log 3). -/
def State.reset : State where
  regs := Vector.replicate 16 0#256
  curveP := 0#256
  curveA := 0#256
  curveB := 0#256
  curveValid := false
  bmem := []
  ie := false
  phase := .idle
  done := false
  ovr := false
  buserr := false
  errcode := .none
  cmd := 0#32
  srcAddr := 0#32
  srcLen := 0#32
  dstAddr := 0#32
  outLen := 0#32
  sqrtIterMax := Config.sqrtIterMaxReset
  sqrtIterUsed := 0#16
  readData := 0#32
  agenda := []
  entropy := ⟨[], 0⟩

end Sys2Proof.Machine
end

