-- ==== Sys2Proof/Machine/Ops.lean ====
section
/-! DEFINITION. The named operations over registers, BMEM and the command's life: issue, completion with or without
an error, reset (spec/10_state.md R18, R23, R40; spec/20_memory.md R56; spec/60_exceptions.md R138;
spec/70_reset_and_hazards.md R160, R161). -/

namespace Sys2Proof.Machine

/-- What a step of this machine answers. -/
abbrev Result := Host.Outcome State Fault Refusal

/-! ## Big-number registers (R11, R18) -/

/-- `B[i]`. -/
def State.reg (s : State) (i : BReg) : Big := s.regs[i.val]'i.isLt

/-- `B[i] <- v`. -/
def State.setReg (s : State) (i : BReg) (v : Big) : State := { s with regs := s.regs.set i.val v i.isLt }

/-- `B[i]` as the integer it holds (R7). -/
def State.num (s : State) (i : BReg) : Nat := (s.reg i).toNat

/-- `B[i] <- v` for a mathematical integer v; every result a command writes is below 2^256 (R91 a). -/
def State.setNum (s : State) (i : BReg) (v : Nat) : State := s.setReg i (BitVec.ofNat 256 v)

/-! ## Curve registers (R21, R22) -/

/-- The write of a CURVESET that completes without error (R103). -/
def State.setCurve (s : State) (p a b : Big) : State :=
  { s with curveP := p, curveA := a, curveB := b, curveValid := true }

/-! ## BMEM (R11, R23, R56) -/

/-- The canonical form of BMEM: addresses strictly rising and below 4096 (R23). An unlisted byte has no value, so no
entry equals what an unlisted address reads as. -/
abbrev Memory.wf (m : Memory) : Prop :=
  m.Pairwise (fun c d => c.1 < d.1) ∧ ∀ c ∈ m, c.1 < Config.bmemSize

/-- The byte at an address, or none where none was written since power-on (R44). -/
def Memory.readByte : Memory → Nat → Option Byte
  | [], _ => none
  | (k, v) :: m, a => if k = a then some v else Memory.readByte m a

/-- Write one byte. -/
def Memory.writeByte : Memory → Nat → Byte → Memory
  | [], a, v => [(a, v)]
  | (k, w) :: m, a, v =>
    if a < k then (a, v) :: (k, w) :: m
    else if a = k then (a, v) :: m
    else (k, w) :: Memory.writeByte m a v

/-- `MemRead(addr, n)` (R11): the bytes at addr .. addr + n − 1 in address order, or the lowest address among them that
was never written. -/
def Memory.readBytes (m : Memory) (a : Nat) : Nat → Except Nat (List Byte)
  | 0 => .ok []
  | n + 1 =>
    match m.readByte a with
    | none => .error a
    | some b =>
      match m.readBytes (a + 1) n with
      | .error e => .error e
      | .ok bs => .ok (b :: bs)

/-- `MemWrite(addr, n, s)` (R11): the bytes of s at addr .. addr + len(s) − 1. -/
def Memory.writeBytes (m : Memory) (a : Nat) : List Byte → Memory
  | [] => m
  | b :: bs => Memory.writeBytes (m.writeByte a b) (a + 1) bs

/-- The write of a codec command that completes without error: its output at DST_ADDR and its length in OUT_LEN
(R34, R56). -/
def State.storeOutput (s : State) (out : List Byte) : State :=
  { s with bmem := s.bmem.writeBytes s.dstAddr.toNat out, outLen := BitVec.ofNat 32 out.length }

/-! ## Issue and completion (R40) -/

/-- Issue (R40 a): "CMD <- v, STATUS.DONE <- 0, STATUS.ERRCODE <- 0, STATUS.BUSY <- 1, phase <- BUSY, and nothing
else". -/
def State.issued (s : State) (v : Word) : State :=
  { s with cmd := v, done := false, errcode := .none, phase := .busy }

/-- The writes every completion makes (R40 b, R138): ERRCODE, DONE <- 1, BUSY <- 0, phase <- IDLE. -/
def State.completed (s : State) (e : ErrCode) : State :=
  { s with errcode := e, done := true, phase := .idle }

/-- `return` (R11): the command ends successfully; `s` holds its committed writes. -/
def succeed (s : State) : Result := .next (s.completed .none)

/-- `raise E` (R11, R138), the engine's only "trap entry": none of the command's destination writes is committed and
the command completes with ERRCODE = E. -/
def raise (e : ErrCode) (s : State) : Result := .next (s.completed e)

/-- The write of SQRT_ITER_USED that every completion of MODSQRT and YFROMX makes (R36), with the entropy source as
the command's draws left it (R60). -/
def State.setSqrtUsed (s : State) (t : Nat) (ent : Entropy) : State :=
  { s with sqrtIterUsed := BitVec.ofNat 16 t, entropy := ent }

/-! ## Reset (R160, R161) -/

/-- Soft reset: the "after SRST" column of R44. B0..B15 and BMEM keep their values; a running command is discarded. -/
def State.softReset (s : State) : State :=
  { s with
    curveP := 0#256, curveA := 0#256, curveB := 0#256, curveValid := false
    ie := false, phase := .idle, done := false, ovr := false, buserr := false, errcode := .none
    cmd := 0#32, srcAddr := 0#32, srcLen := 0#32, dstAddr := 0#32, outLen := 0#32
    sqrtIterMax := Config.sqrtIterMaxReset, sqrtIterUsed := 0#16 }

/-- Power-on reset in the middle of an agenda (R160; log 14): the state of `State.reset`; what lies outside the engine
(the agenda, the entropy source and the read data the host took) stays. -/
def State.poweredOn (s : State) : State :=
  { State.reset with agenda := s.agenda, entropy := s.entropy, readData := s.readData }

end Sys2Proof.Machine
end

