-- ==== Sys2Proof/Machine/Flags.lean ====
section
/-! DEFINITION. STATUS, the engine's only flag register, CTRL, the interrupt line, and the error codes
(spec/10_state.md R25, R28, R29, R42, R43; spec/60_exceptions.md R136, R140). -/

namespace Sys2Proof.Machine

/-- The code column of R136. -/
def ErrCode.code : ErrCode → BitVec 8
  | .none => 0#8
  | .illegalOpcode => 1#8
  | .operand => 2#8
  | .modulus => 3#8
  | .noSqrt => 4#8
  | .singular => 5#8
  | .noCurve => 6#8
  | .sqrtIter => 7#8
  | .encoding => 8#8
  | .bounds => 9#8
  | .width => 10#8

/-- The code a word that is no legal, well-formed command completes with (R73, R74, R75). -/
def decodeErrCode : DecodeError → ErrCode
  | .illegalOpcode => .illegalOpcode
  | .nonzeroField => .operand
  | .oddPoint => .operand

/-- STATUS.BUSY (R40). -/
def State.isBusy (s : State) : Bool := s.phase == .busy

/-- STATUS (R29): BUSY bit 0, DONE bit 1, OVR bit 2, BUSERR bit 3, CURVE_VALID bit 4, ERRCODE [15:8]; the other bits
are reserved and read 0 (R25). -/
def State.statusWord (s : State) : Word :=
  0#16 ++ s.errcode.code ++ 0#3 ++ BitVec.ofBool s.curveValid ++ BitVec.ofBool s.buserr ++ BitVec.ofBool s.ovr ++
    BitVec.ofBool s.done ++ BitVec.ofBool s.isBusy

/-- A host write to STATUS (R29): writing 1 to DONE, OVR or BUSERR clears it; "Writing 0 to a W1C bit leaves it
unchanged"; the other fields are read-only. -/
def State.writeStatus (s : State) (v : Word) : State :=
  { s with
    done := s.done && !v.getLsbD 1
    ovr := s.ovr && !v.getLsbD 2
    buserr := s.buserr && !v.getLsbD 3 }

/-- CTRL (R28): bit 1 IE; SRST (bit 0) always reads 0; the rest is reserved (R25). -/
def State.ctrlWord (s : State) : Word := 0#30 ++ BitVec.ofBool s.ie ++ 0#1

/-- A host write to CTRL (R28): with SRST = 1 the soft reset, "which sets IE to 0 whatever the written bit 1 was"; with
SRST = 0, IE takes the written bit 1. -/
def State.writeCtrl (s : State) (v : Word) : State :=
  if v.getLsbD 0 then s.softReset else { s with ie := v.getLsbD 1 }

/-- The interrupt output (R42): "IRQ = STATUS.DONE AND CTRL.IE", a level. -/
def State.irq (s : State) : Bool := s.done && s.ie

end Sys2Proof.Machine
end

