-- ==== Sys2Proof/Machine/Operands.lean ====
section
/-! DEFINITION. The operand forms of the commands: a point in a register pair, the curve, and the BMEM ranges
(spec/00_scope.md R10, R12; spec/10_state.md R19, R22; spec/30_encoding.md R71, R75; spec/42_codecs.md R133). -/

namespace Sys2Proof.Machine

/-! ## Points (R12, R19) -/

/-- A point: "a pair of integers (x, y), in affine coordinates"; (0, 0) is the identity sentinel (R12). -/
abbrev Point := Nat × Nat

/-- The identity sentinel (R12). -/
def identity : Point := (0, 0)

/-- The odd register of the pair that the even register j names (R19). -/
def oddOf (j : BReg) : BReg := j + 1

/-- `(B[j], B[j+1])`: x in the even register, y in the odd one (R19). -/
def State.point (s : State) (j : BReg) : Point := (s.num j, s.num (oddOf j))

/-- `B[j] <- x; B[j+1] <- y`. -/
def State.setPoint (s : State) (j : BReg) (P : Point) : State := (s.setNum j P.1).setNum (oddOf j) P.2

/-- Run a command whose point fields are `js`: an odd one is an operand error (R19, R75). The decoder lets no such
command through (R76); DEDUCED (log 12) for a command given to `exec` directly, safe. -/
def withPoints (js : List BReg) (s : State) (k : Result) : Result :=
  if js.all BReg.isPoint then k else raise .operand s

/-- Run a curve command: "if CURVE_VALID = 0: raise NO_CURVE" (R104 to R107). -/
def withCurve (s : State) (k : Result) : Result :=
  if s.curveValid then k else raise .noCurve s

/-! ## Big-endian byte images (R10) -/

/-- `BE(s)`, the big-endian value of a byte sequence. -/
def beValue (bs : List Byte) : Nat := bs.foldl (fun v b => v * 256 + b.toNat) 0

/-- `BEbytes(v, n)`, the n-byte sequence whose big-endian value is v, for v below 256^n. -/
def beBytes (v : Nat) : Nat → List Byte
  | 0 => []
  | n + 1 => BitVec.ofNat 8 (v / 256 ^ n) :: beBytes v n

/-! ## BMEM ranges (R56, R133) -/

/-- `CheckSrc()`: "if SRC_ADDR + SRC_LEN > 4096: raise BOUNDS", an integer sum, then the input bytes go to `k`. An
input byte that was never written is a fault of the model (R133, R44). -/
def withSrc (s : State) (k : List Byte → Result) : Result :=
  if s.srcAddr.toNat + s.srcLen.toNat > Config.bmemSize then raise .bounds s
  else
    match s.bmem.readBytes s.srcAddr.toNat s.srcLen.toNat with
    | .error a => .fault (.unwrittenByte a)
    | .ok bs => k bs

/-- `CheckDst(len(out))`: "if DST_ADDR + n > 4096: raise BOUNDS", an integer sum, then the output is committed
(R56, R133). -/
def deliver (s : State) (out : List Byte) : Result :=
  if s.dstAddr.toNat + out.length > Config.bmemSize then raise .bounds s
  else succeed (s.storeOutput out)

/-- A codec command once its input bytes are read: the function's own errors, then CheckDst and the write (R133). -/
def codecOn (f : List Byte → Except ErrCode (List Byte)) (s : State) (bs : List Byte) : Result :=
  match f bs with
  | .error e => raise e s
  | .ok out => deliver s out

/-- A codec command from BMEM to BMEM: CheckSrc, then the function's own errors, then CheckDst (R133). -/
def codec (f : List Byte → Except ErrCode (List Byte)) (s : State) : Result := withSrc s (codecOn f s)

end Sys2Proof.Machine
end

