-- ==== Sys2Proof/Machine/Access.lean ====
section
/-! DEFINITION. Host accesses: the register map and its windows (spec/10_state.md R24 to R39;
spec/20_memory.md R50 to R55). -/

namespace Sys2Proof.Machine

/-- The three curve registers of the CURVE windows (R38). -/
inductive CurveReg where
  | p
  | a
  | b
  deriving DecidableEq, Repr

/-- What a 4-aligned offset of the register block names (R24). -/
inductive Target where
  | info | ctrl | status | cmd | srcAddr | srcLen | dstAddr | outLen | sqrtIterMax | sqrtIterUsed
  /-- word j of B[i] (R37) -/
  | breg (i : BReg) (j : Nat)
  /-- word j of a curve register (R38) -/
  | curve (c : CurveReg) (j : Nat)
  /-- the BMEM word whose lowest byte is at `addr` (R39) -/
  | bmem (addr : Nat)
  | reserved
  deriving DecidableEq, Repr

/-- The map of R24. -/
def Target.ofOffset (off : Offset) : Target :=
  let o := off.toNat
  if o < 0x0004 then .info
  else if o < 0x0008 then .ctrl
  else if o < 0x000C then .status
  else if o < 0x0010 then .cmd
  else if o < 0x0014 then .srcAddr
  else if o < 0x0018 then .srcLen
  else if o < 0x001C then .dstAddr
  else if o < 0x0020 then .outLen
  else if o < 0x0024 then .sqrtIterMax
  else if o < 0x0028 then .sqrtIterUsed
  else if o < 0x0400 then .reserved
  else if o < 0x0600 then .breg (Fin.ofNat 16 ((o - 0x0400) / 32)) ((o - 0x0400) % 32 / 4)
  else if o < 0x0620 then .curve .p ((o - 0x0600) / 4)
  else if o < 0x0640 then .curve .a ((o - 0x0620) / 4)
  else if o < 0x0660 then .curve .b ((o - 0x0640) / 4)
  else if o < 0x1000 then .reserved
  else .bmem ((o - 0x1000) / 4 * 4)

/-- Word j (0..7) of a 256-bit register: bits [255−32j : 224−32j] (R37, R38). -/
def bigWord (v : Big) (j : Nat) : Word := v.extractLsb' (224 - 32 * j) 32

/-- Replace word j of a 256-bit register: "a write replaces exactly that slice and leaves the other 224 bits of B[i]
unchanged" (R37). -/
def setBigWord (v : Big) (j : Nat) (w : Word) : Big :=
  (v &&& ~~~((BitVec.allOnes 32).setWidth 256 <<< (224 - 32 * j))) ||| (w.setWidth 256 <<< (224 - 32 * j))

/-- The curve register a CURVE window shows. -/
def State.curveReg (s : State) : CurveReg → Big
  | .p => s.curveP
  | .a => s.curveA
  | .b => s.curveB

/-- The value a well-formed read returns (R24 to R39), or the BMEM byte it would need that was never written. -/
def State.readTarget (s : State) : Target → Except Nat Word
  | .info => .ok Config.infoWord
  | .ctrl => .ok s.ctrlWord
  | .status => .ok s.statusWord
  | .cmd => .ok s.cmd
  | .srcAddr => .ok s.srcAddr
  | .srcLen => .ok s.srcLen
  | .dstAddr => .ok s.dstAddr
  | .outLen => .ok s.outLen
  | .sqrtIterMax => .ok (s.sqrtIterMax.setWidth 32)
  | .sqrtIterUsed => .ok (s.sqrtIterUsed.setWidth 32)
  | .breg i j => .ok (bigWord (s.reg i) j)
  | .curve c j => .ok (bigWord (s.curveReg c) j)
  | .bmem addr =>
    match s.bmem.readBytes addr 4 with
    | .error a => .error a
    | .ok bs => .ok (BitVec.ofNat 32 (beValue bs))
  | .reserved => .ok 0#32

/-- A write that is accepted in IDLE and dropped in BUSY, where it sets OVR (R26). -/
def State.guarded (s : State) (t : State) : State :=
  if s.isBusy then { s with ovr := true } else t

/-- A well-formed write (R24 to R39). Read-only and reserved targets ignore it "without any flag" (R24, R53). -/
def State.writeTarget (s : State) (t : Target) (v : Word) : State :=
  match t with
  | .info => s
  | .ctrl => s.writeCtrl v
  | .status => s.writeStatus v
  | .cmd => s.guarded (s.issued v)
  | .srcAddr => s.guarded { s with srcAddr := v }
  | .srcLen => s.guarded { s with srcLen := v }
  | .dstAddr => s.guarded { s with dstAddr := v }
  | .outLen => s
  | .sqrtIterMax => s.guarded { s with sqrtIterMax := v.setWidth 16 }
  | .sqrtIterUsed => s
  | .breg i j => s.guarded (s.setReg i (setBigWord (s.reg i) j v))
  | .curve _ _ => s
  | .bmem addr => s.guarded { s with bmem := s.bmem.writeBytes addr (beBytes v.toNat 4) }
  | .reserved => s

/-- An access is well-formed "when it transfers all four bytes (a 32-bit access) and `off mod 4 = 0`" (R52). -/
def wellFormedAccess (size : AccessSize) (off : Offset) : Bool := size == .word && off.toNat % 4 == 0

/-- `HostRead(off)` (R13, R52): an ill-formed one "changes nothing it addresses, returns 0 if it is a read, and sets
STATUS.BUSERR to 1". -/
def hostRead (size : AccessSize) (off : Offset) (s : State) : Result :=
  if wellFormedAccess size off then
    match s.readTarget (Target.ofOffset off) with
    | .error a => .fault (.unwrittenByte a)
    | .ok v => .next { s with readData := v }
  else .next { s with readData := 0#32, buserr := true }

/-- `HostWrite(off, v)` (R13, R52). An ill-formed one sets BUSERR alone, busy or not: DEDUCED (log 10), unsafe. -/
def hostWrite (size : AccessSize) (off : Offset) (v : Word) (s : State) : Result :=
  if wellFormedAccess size off then .next (s.writeTarget (Target.ofOffset off) v)
  else .next { s with buserr := true }

/-- The offset that a host address names, none where the address is outside the register block: "Accesses outside
0x0000–0x1FFF do not reach the engine" (R50 a, R53; log 8). -/
def offsetOfAddress (addr : Nat) : Option Offset :=
  if Config.base ≤ addr ∧ addr < Config.base + Config.blockSize then some (BitVec.ofNat 13 (addr - Config.base))
  else none

end Sys2Proof.Machine
end

