-- ==== Sys2Proof/Machine/Alphabet.lean ====
section
/-! DEFINITION. The symbol maps of the two base85 variants (spec/42_codecs.md R124). -/

namespace Sys2Proof.Machine

/-- The Ascii85 sequence: byte 33 + d for the digit d (R124). -/
def ascii85Sequence : List Byte := (List.range 85).map fun d => BitVec.ofNat 8 (33 + d)

/-- The bytes from `lo` on, `n` of them. -/
def byteRun (lo n : Nat) : List Byte := (List.range n).map fun d => BitVec.ofNat 8 (lo + d)

/-- The RFC 1924 sequence (R124 iii): the digits, the capitals, the small letters, then the 23 marks listed there, by
their ASCII codes (G4, G6). -/
def rfc1924Sequence : List Byte :=
  byteRun 0x30 10 ++ byteRun 0x41 26 ++ byteRun 0x61 26 ++
    [0x21#8] ++ byteRun 0x23 4 ++ byteRun 0x28 4 ++ [0x2D#8] ++ byteRun 0x3B 6 ++ byteRun 0x5E 3 ++ byteRun 0x7B 4

/-- The constraints (i), (ii) and (iii) of R124 on SAFE_ALPHABET: 85 pairwise distinct bytes, each in 0x21..0x7E, in a
sequence that is neither Ascii85's nor RFC 1924's. -/
def legalAlphabet (l : List Byte) : Bool :=
  l.length == 85 && decide l.Nodup && l.all (fun c => 0x21 ≤ c.toNat && c.toNat ≤ 0x7E) &&
    l != ascii85Sequence && l != rfc1924Sequence

/-- One alphabet that R124 allows, the Ascii85 sequence backwards. It only keeps `safeAlphabet` legal when the
opaque parameter is not (log 7). -/
def someLegalAlphabet : List Byte := ascii85Sequence.reverse

/-- SAFE_ALPHABET (R6, R124): the opaque parameter, held to the constraints of R124. DESIGN CHOICE (log 7): the possible
values are exactly the alphabets R124 allows; safe. -/
def safeAlphabet : List Byte :=
  if legalAlphabet Config.safeAlphabetParam then Config.safeAlphabetParam else someLegalAlphabet

/-- The symbol of a digit in an alphabet. -/
def symIn (alphabet : List Byte) (d : Nat) : Byte := alphabet.getD d 0#8

/-- "the unique d with SAFE_ALPHABET[d] = c, or invalid when no such d exists". -/
def unsymIn (alphabet : List Byte) (c : Byte) : Option Nat := alphabet.idxOf? c

/-- `sym_S` (R124). -/
def symSafe : Nat → Byte := symIn safeAlphabet

/-- `unsym_S` (R124). -/
def unsymSafe : Byte → Option Nat := unsymIn safeAlphabet

/-- `sym_A(d) = d + 33` (R124). -/
def symAscii (d : Nat) : Byte := BitVec.ofNat 8 (d + 33)

/-- `unsym_A(c) = c − 33` when 33 ≤ c ≤ 117, else invalid (R124). -/
def unsymAscii (c : Byte) : Option Nat :=
  if 33 ≤ c.toNat ∧ c.toNat ≤ 117 then some (c.toNat - 33) else none

end Sys2Proof.Machine
end

