-- ==== Sys2Proof/Machine/ModArith.lean ====
section
/-! DEFINITION. The modular arithmetic kernel and the commands MODEXP, MODINV and MODSQRT
(spec/40_modarith.md R80 to R91; spec/00_scope.md R7, R8). -/

namespace Sys2Proof.Machine

/-! ## Integers (R7, R8) -/

/-- `x mod m`: "the floor remainder, always in [0, m), also when x is negative" (R7). -/
def imod (x : Int) (m : Nat) : Nat := (x % (m : Int)).toNat

/-- `bitlen(v)`: the number of binary digits of v; bitlen(0) = 0 (R8). -/
def bitlen (v : Nat) : Nat := if v = 0 then 0 else v.log2 + 1

/-! ## ModPow and ModInv (R81, R82) -/

/-- The loop of R81 over the bits i − 1 .. 0 of er, "most significant bit first". -/
def modPowLoop (base er m : Nat) : Nat → Nat → Nat
  | 0, acc => acc
  | i + 1, acc =>
    modPowLoop base er m i
      (if er.testBit i then acc * acc % m * base % m else acc * acc % m)

/-- `ModPow(b, e, m)` (R81), for m ≥ 2, which its callers check. -/
def modPow (b : Int) (e m : Nat) : Nat :=
  if e % (m - 1) = 0 then 1
  else modPowLoop (imod b m) (e % (m - 1)) m (bitlen (e % (m - 1))) 1

/-- `ModInv(g, p) := ModPow(g, p - 2, p)` (R82), for p ≥ 2. -/
def modInv (g : Int) (p : Nat) : Nat := modPow g (p - 2) p

/-! ## Lucas (R83) -/

/-- `D := (X*X - 4*Y) mod p` (R83). -/
def lucasDisc (X Y p : Nat) : Nat := imod ((X * X : Int) - 4 * Y) p

/-- The step m -> 2m of R83. -/
def lucasDouble (D inv2 p : Nat) (UV : Nat × Nat) : Nat × Nat :=
  (UV.1 * UV.2 % p, (UV.2 * UV.2 + D * UV.1 * UV.1) * inv2 % p)

/-- The step m -> m+1 of R83. -/
def lucasNext (X D inv2 p : Nat) (UV : Nat × Nat) : Nat × Nat :=
  ((X * UV.1 + UV.2) * inv2 % p, (X * UV.2 + D * UV.1) * inv2 % p)

/-- The loop of R83 over the bits i − 1 .. 0 of k. -/
def lucasLoop (X D inv2 p k : Nat) : Nat → Nat × Nat → Nat × Nat
  | 0, UV => UV
  | i + 1, UV =>
    lucasLoop X D inv2 p k i
      (if k.testBit i then lucasNext X D inv2 p (lucasDouble D inv2 p UV) else lucasDouble D inv2 p UV)

/-- `Lucas(X, Y, k, p)` (R83), for k ≥ 1 and odd p ≥ 3: the bits of k below its leading 1, from (U_1, V_1). -/
def lucas (X Y k p : Nat) : Nat × Nat :=
  lucasLoop X (lucasDisc X Y p) (modInv 2 p) p k (bitlen k - 1) (1, X % p)

/-! ## ModSqrt (R84 to R87) -/

/-- How ModSqrt ends: with a root y, or raising an error; in both cases with t, the number of draws made, and the
entropy source after them (R84). -/
inductive SqrtOutcome where
  | root (y t : Nat) (ent : Entropy)
  | failed (e : ErrCode) (t : Nat) (ent : Entropy)
  deriving DecidableEq, Repr

/-- `SqrtA(g, p)`, the branch p ≡ 3 (mod 4) (R85). -/
def sqrtA (g p : Nat) (ent : Entropy) : SqrtOutcome :=
  let y := modPow g ((p - 3) / 4 + 1) p
  if y * y % p = g % p then .root y 0 ent else .failed .noSqrt 0 ent

/-- `SqrtB(g, p)`, the branch p ≡ 5 (mod 8) (R86). -/
def sqrtB (g p : Nat) (ent : Entropy) : SqrtOutcome :=
  let u := (p - 5) / 8
  let z := modPow g (2 * u + 1) p
  if z = 1 then .root (modPow g (u + 1) p) 0 ent
  else if z = p - 1 then .root (2 * g % p * modPow (4 * g) u p % p) 0 ent
  else .failed .noSqrt 0 ent

/-- `draw()` for a command of modulus p: the next value of the entropy source, in [0, p) (R60, R87). DESIGN CHOICE
(log 4): a value at or above p is reduced mod p, so every draw in [0, p) and no other is possible; safe. -/
def draw (p : Nat) (ent : Entropy) : Nat × Entropy :=
  match ent.supply with
  | [] => (Config.entropyDraw ent.drawn % p, ⟨[], ent.drawn + 1⟩)
  | x :: xs => (x % p, ⟨xs, ent.drawn + 1⟩)

/-- What one attempt of R87 concludes from its (U, V). -/
inductive Attempt where
  | success (y : Nat)
  | nonResidue
  | retry
  deriving DecidableEq, Repr

/-- One attempt of R87 with the draw X. -/
def sqrtAttempt (g p X : Nat) : Attempt :=
  let UV := lucas X g (4 * ((p - 1) / 8) + 1) p
  if UV.2 * UV.2 % p = 4 * g % p then .success (UV.2 * modInv 2 p % p)
  else if UV.1 ≠ 1 ∧ UV.1 ≠ p - 1 then .nonResidue
  else .retry

/-- The loop of R87: `left` attempts are still allowed and t were made. -/
def sqrtCLoop (g p : Nat) : Nat → Nat → Entropy → SqrtOutcome
  | 0, t, ent => .failed .sqrtIter t ent
  | left + 1, t, ent =>
    match sqrtAttempt g p (draw p ent).1 with
    | .success y => .root y (t + 1) (draw p ent).2
    | .nonResidue => .failed .noSqrt (t + 1) (draw p ent).2
    | .retry => sqrtCLoop g p left (t + 1) (draw p ent).2

/-- `SqrtC(g, p)`, the branch p ≡ 1 (mod 8), with SQRT_ITER_MAX attempts (R87). -/
def sqrtC (g p cap : Nat) (ent : Entropy) : SqrtOutcome := sqrtCLoop g p cap 0 ent

/-- `ModSqrt(g, p)` (R84). -/
def modSqrt (g p cap : Nat) (ent : Entropy) : SqrtOutcome :=
  if p < 3 ∨ p % 2 = 0 then .failed .modulus 0 ent
  else if p % 4 = 3 then sqrtA g p ent
  else if p % 8 = 5 then sqrtB g p ent
  else sqrtC g p cap ent

/-- The end of MODSQRT and YFROMX (R90, R107): SQRT_ITER_USED is written on every completion, the root only on
success. -/
def finishSqrt (rd : BReg) (o : SqrtOutcome) (s : State) : Result :=
  match o with
  | .root y t ent => succeed ((s.setSqrtUsed t ent).setNum rd y)
  | .failed e t ent => raise e (s.setSqrtUsed t ent)

/-! ## Commands -/

/-- MODEXP (R88). -/
def execModexp (rd rs1 rs2 rs3 : BReg) (s : State) : Result :=
  if s.num rs3 < 2 then raise .modulus s
  else succeed (s.setNum rd (modPow (s.num rs1) (s.num rs2) (s.num rs3)))

/-- MODINV (R89). -/
def execModinv (rd rs1 rs2 : BReg) (s : State) : Result :=
  if s.num rs2 < 2 then raise .modulus s
  else succeed (s.setNum rd (modInv (s.num rs1) (s.num rs2)))

/-- MODSQRT (R90). -/
def execModsqrt (rd rs1 rs2 : BReg) (s : State) : Result :=
  finishSqrt rd (modSqrt (s.num rs1) (s.num rs2) s.sqrtIterMax.toNat s.entropy) s

end Sys2Proof.Machine
end

