-- ==== Sys2Proof/Machine/Codecs.lean ====
section
/-! DEFINITION. The codec functions and the commands I2B, B2I, B85E, B85D, A85E, A85D, U8E and U8D
(spec/42_codecs.md R120 to R135). -/

namespace Sys2Proof.Machine

/-! ## Integer codec (R120, R121) -/

/-- `hexlen(v)`: the hexadecimal digits of v without leading zeros, with hexlen(0) = 1 (R8). -/
def hexlen (v : Nat) : Nat := if v = 0 then 1 else v.log2 / 4 + 1

/-- `IntToBytes(v)` (R120). -/
def intToBytes (v : Nat) : List Byte := beBytes v ((hexlen v + 1) / 2)

/-- `BytesToInt(s)` (R121): "if v >= 2^256: raise WIDTH". -/
def bytesToInt (bs : List Byte) : Except ErrCode Nat :=
  if beValue bs ≥ 2 ^ 256 then .error .width else .ok (beValue bs)

/-! ## Base85 (R122, R123) -/

/-- A 4-byte big-endian word (R51, R122). -/
def wordOf4 (a b c d : Byte) : Nat := a.toNat * 2 ^ 24 + b.toNat * 2 ^ 16 + c.toNat * 2 ^ 8 + d.toNat

/-- The five digits of a word, digit₀ first (R122). -/
def digits85 (w : Nat) : List Nat :=
  [w / 85 ^ 4 % 85, w / 85 ^ 3 % 85, w / 85 ^ 2 % 85, w / 85 % 85, w % 85]

/-- "k = 4 - (len(s) mod 4)", 1 to 4 (R122). -/
def padCount (n : Nat) : Nat := 4 - n % 4

/-- "t := s ++ [k, k, ..., k]", k copies of the byte value k (R122). -/
def padded (bs : List Byte) : List Byte :=
  bs ++ List.replicate (padCount bs.length) (BitVec.ofNat 8 (padCount bs.length))

/-- The digits of a buffer of whole words (R122). -/
def bufferDigits : List Byte → List Nat
  | a :: b :: c :: d :: rest => digits85 (wordOf4 a b c d) ++ bufferDigits rest
  | _ => []

/-- `Base85Encode(s, sym)` (R122). -/
def base85Encode (sym : Nat → Byte) (bs : List Byte) : List Byte := (bufferDigits (padded bs)).map sym

/-- The word of a group of five symbols: none when a symbol is outside the alphabet or the sum is 2^32 or more (R123). -/
def groupWord (unsym : Byte → Option Nat) (a b c d e : Byte) : Option Nat :=
  match unsym a, unsym b, unsym c, unsym d, unsym e with
  | some va, some vb, some vc, some vd, some ve =>
    let w := (((va * 85 + vb) * 85 + vc) * 85 + vd) * 85 + ve
    if w ≥ 2 ^ 32 then none else some w
  | _, _, _, _, _ => none

/-- The decoded buffer of a text of whole groups (R123). -/
def decodeGroups (unsym : Byte → Option Nat) : List Byte → Option (List Byte)
  | [] => some []
  | a :: b :: c :: d :: e :: rest =>
    match groupWord unsym a b c d e with
    | none => none
    | some w =>
      match decodeGroups unsym rest with
      | none => none
      | some t => some (beBytes w 4 ++ t)
  | _ => none

/-- The end of R123: read the padding count k from the last byte, and drop the last k bytes. -/
def unpad (t : List Byte) : Except ErrCode (List Byte) :=
  let k := (t.getLastD 0#8).toNat
  if k < 1 ∨ k > 4 then .error .encoding else .ok (t.take (t.length - k))

/-- `Base85Decode(text, unsym)` (R123). -/
def base85Decode (unsym : Byte → Option Nat) (text : List Byte) : Except ErrCode (List Byte) :=
  if text.length = 0 ∨ text.length % 5 ≠ 0 then .error .encoding
  else
    match decodeGroups unsym text with
    | none => .error .encoding
    | some t => unpad t

/-! ## UTF-8 (R129, R130) -/

/-- `CodePoints(s)`, the 4-byte big-endian words of a code-point array (R129). -/
def codePoints : List Byte → List Nat
  | a :: b :: c :: d :: rest => wordOf4 a b c d :: codePoints rest
  | _ => []

/-- The bytes of one code point c ≤ 0x10FFFF (R129). -/
def utf8Bytes (c : Nat) : List Byte :=
  if c ≤ 0x7F then [BitVec.ofNat 8 c]
  else if c ≤ 0x7FF then [BitVec.ofNat 8 (0xC0 + c / 64), BitVec.ofNat 8 (0x80 + c % 64)]
  else if c ≤ 0xFFFF then
    [BitVec.ofNat 8 (0xE0 + c / 4096), BitVec.ofNat 8 (0x80 + c / 64 % 64), BitVec.ofNat 8 (0x80 + c % 64)]
  else
    [BitVec.ofNat 8 (0xF0 + c / 262144), BitVec.ofNat 8 (0x80 + c / 4096 % 64),
     BitVec.ofNat 8 (0x80 + c / 64 % 64), BitVec.ofNat 8 (0x80 + c % 64)]

/-- `Utf8Encode(cps)` (R129): "if c > 0x10FFFF: raise ENCODING". -/
def utf8Encode (cps : List Nat) : Except ErrCode (List Byte) :=
  if cps.any (fun c => c > 0x10FFFF) then .error .encoding else .ok (cps.flatMap utf8Bytes)

/-- The lead byte of a sequence (R130): its length n, the bits it gives the code point, and the least code point `lo`
that may take n bytes; none for 0x80..0xBF and 0xF8..0xFF. -/
def utf8Lead (b : Byte) : Option (Nat × Nat × Nat) :=
  if b.toNat ≤ 0x7F then some (1, b.toNat, 0)
  else if 0xC0 ≤ b.toNat ∧ b.toNat ≤ 0xDF then some (2, b.toNat - 0xC0, 0x80)
  else if 0xE0 ≤ b.toNat ∧ b.toNat ≤ 0xEF then some (3, b.toNat - 0xE0, 0x800)
  else if 0xF0 ≤ b.toNat ∧ b.toNat ≤ 0xF7 then some (4, b.toNat - 0xF0, 0x10000)
  else none

/-- The continuation bytes of a sequence, onto the bits c so far; none when one of them is not 10xxxxxx (R130). -/
def utf8Continue : List Byte → Nat → Option Nat
  | [], c => some c
  | b :: bs, c => if b.toNat / 64 ≠ 2 then none else utf8Continue bs (c * 64 + b.toNat % 64)

/-- One sequence at the head of the input: its code point and the input after it (R130). -/
def utf8Head : List Byte → Option (Nat × List Byte)
  | [] => none
  | b :: rest =>
    match utf8Lead b with
    | none => none
    | some (n, c, lo) =>
      if n > rest.length + 1 then none
      else
        match utf8Continue (rest.take (n - 1)) c with
        | none => none
        | some c' => if c' < lo ∨ c' > 0x10FFFF then none else some (c', rest.drop (n - 1))

/-- The loop of R130. Each round takes at least one byte, so len(s) rounds are enough. -/
def utf8DecodeLoop : Nat → List Byte → Option (List Nat)
  | _, [] => some []
  | 0, _ :: _ => none
  | fuel + 1, b :: bs =>
    match utf8Head (b :: bs) with
    | none => none
    | some (c, rest) =>
      match utf8DecodeLoop fuel rest with
      | none => none
      | some cps => some (c :: cps)

/-- `Utf8Decode(s)` (R130). -/
def utf8Decode (bs : List Byte) : Except ErrCode (List Nat) :=
  match utf8DecodeLoop bs.length bs with
  | none => .error .encoding
  | some cps => .ok cps

/-- "if len(s) mod 4 != 0: raise ENCODING", then Utf8Encode of the code points (R131). -/
def encodeText (bs : List Byte) : Except ErrCode (List Byte) :=
  if bs.length % 4 ≠ 0 then .error .encoding else utf8Encode (codePoints bs)

/-- A list of code points as a code-point array (R129, R132). -/
def textOf (cps : List Nat) : List Byte := cps.flatMap fun c => beBytes c 4

/-- Utf8Decode, then the code-point array of its result (R132). -/
def decodeText (bs : List Byte) : Except ErrCode (List Byte) :=
  match utf8Decode bs with
  | .error e => .error e
  | .ok cps => .ok (textOf cps)

/-! ## Commands -/

/-- I2B (R125). -/
def execI2b (rs1 : BReg) (s : State) : Result := deliver s (intToBytes (s.num rs1))

/-- `B[RD] <- BytesToInt(s)`, once the input bytes are read (R126). -/
def loadInteger (rd : BReg) (s : State) (bs : List Byte) : Result :=
  match bytesToInt bs with
  | .error e => raise e s
  | .ok v => succeed (s.setNum rd v)

/-- B2I (R126). -/
def execB2i (rd : BReg) (s : State) : Result := withSrc s (loadInteger rd s)

/-- B85E (R127). -/
def execB85e (s : State) : Result := codec (fun bs => .ok (base85Encode symSafe bs)) s

/-- B85D (R128). -/
def execB85d (s : State) : Result := codec (base85Decode unsymSafe) s

/-- A85E (R134). -/
def execA85e (s : State) : Result := codec (fun bs => .ok (base85Encode symAscii bs)) s

/-- A85D (R135). -/
def execA85d (s : State) : Result := codec (base85Decode unsymAscii) s

/-- U8E (R131). -/
def execU8e (s : State) : Result := codec encodeText s

/-- U8D (R132). -/
def execU8d (s : State) : Result := codec decodeText s

end Sys2Proof.Machine
end

