-- ==== Sys2Proof/Machine/Ecc.lean ====
section
/-! DEFINITION. The curve group and the commands CURVESET, PADD, PDBL, PMUL and YFROMX
(spec/41_ecc.md R100 to R107). -/

namespace Sys2Proof.Machine

/-! ## Internal functions -/

/-- `CurveCheck(p, a, b)` (R100): the error it raises, if any. -/
def curveCheck (p a b : Nat) : Option ErrCode :=
  if p < 2 then some .modulus
  else if (4 * a * a * a + 27 * b * b) % p = 0 then some .singular
  else none

/-- The slope of R101: the doubling formula when the x of the operands are equal as integers, else the chord. -/
def slope (P1 P2 : Point) (a p : Nat) : Nat :=
  if P1.1 = P2.1 then imod ((3 * P1.1 * P1.1 + a : Int) * modInv (2 * P1.2) p) p
  else imod ((P2.2 - P1.2 : Int) * modInv ((P2.1 : Int) - P1.1) p) p

/-- The third point of R101 for a slope lam. -/
def thirdPoint (P1 P2 : Point) (lam p : Nat) : Point :=
  let x3 := imod ((lam * lam : Int) - P1.1 - P2.1) p
  (x3, imod ((lam : Int) * (P1.1 - x3) - P1.2) p)

/-- `PAdd(P1, P2, a, p)` (R101), for p ≥ 2, with the sentinel test on the raw values. -/
def pointAdd (P1 P2 : Point) (a p : Nat) : Point :=
  if P1 = identity then P2
  else if P2 = identity then P1
  else thirdPoint P1 P2 (slope P1 P2 a p) p

/-- The loop of R102 over the bits i − 1 .. 0 of k. -/
def pointMulLoop (P : Point) (k a p : Nat) : Nat → Point → Point
  | 0, Q => Q
  | i + 1, Q =>
    pointMulLoop P k a p i
      (if k.testBit i then pointAdd (pointAdd Q Q a p) P a p else pointAdd Q Q a p)

/-- `PMul(P, k, a, p)` (R102): all 256 bits of k, from the identity sentinel. -/
def pointMul (P : Point) (k a p : Nat) : Point := pointMulLoop P k a p 256 identity

/-- The right-hand side `(x*x*x + a*x + b) mod p` of R107. -/
def curveRhs (x a b p : Nat) : Nat := (x * x * x + a * x + b) % p

/-! ## Commands -/

/-- CURVESET (R103). -/
def execCurveset (rs1 rs2 rs3 : BReg) (s : State) : Result :=
  match curveCheck (s.num rs1) (s.num rs2) (s.num rs3) with
  | some e => raise e s
  | none => succeed (s.setCurve (s.reg rs1) (s.reg rs2) (s.reg rs3))

/-- PADD (R104). -/
def execPadd (rd rs1 rs2 : BReg) (s : State) : Result :=
  withPoints [rd, rs1, rs2] s <| withCurve s <|
    succeed (s.setPoint rd (pointAdd (s.point rs1) (s.point rs2) s.curveA.toNat s.curveP.toNat))

/-- PDBL (R105): "the `add` case "including `P1 == P2`"". -/
def execPdbl (rd rs1 : BReg) (s : State) : Result :=
  withPoints [rd, rs1] s <| withCurve s <|
    succeed (s.setPoint rd (pointAdd (s.point rs1) (s.point rs1) s.curveA.toNat s.curveP.toNat))

/-- PMUL (R106). -/
def execPmul (rd rs1 rs2 : BReg) (s : State) : Result :=
  withPoints [rd, rs1] s <| withCurve s <|
    succeed (s.setPoint rd (pointMul (s.point rs1) (s.num rs2) s.curveA.toNat s.curveP.toNat))

/-- YFROMX (R107). "a completion with OPERAND, NO_CURVE or MODULUS writes 0" to SQRT_ITER_USED. -/
def execYfromx (rd rs1 : BReg) (s : State) : Result :=
  if s.curveValid then
    finishSqrt rd
      (modSqrt (curveRhs (s.num rs1) s.curveA.toNat s.curveB.toNat s.curveP.toNat) s.curveP.toNat
        s.sqrtIterMax.toNat s.entropy) s
  else raise .noCurve (s.setSqrtUsed 0 s.entropy)

end Sys2Proof.Machine
end

