-- ==== Sys2Proof/Machine/Dispatch.lean ====
section
/-! DEFINITION. The completion step of each command (spec/10_state.md R40 b; spec/30_encoding.md R72). -/

namespace Sys2Proof.Machine

def exec (i : Instr) (s : State) : Host.Outcome State Fault Refusal :=
  match i with
  | .modexp rd rs1 rs2 rs3 => Sys2Proof.Machine.execModexp rd rs1 rs2 rs3 s
  | .modinv rd rs1 rs2 => Sys2Proof.Machine.execModinv rd rs1 rs2 s
  | .modsqrt rd rs1 rs2 => Sys2Proof.Machine.execModsqrt rd rs1 rs2 s
  | .curveset rs1 rs2 rs3 => Sys2Proof.Machine.execCurveset rs1 rs2 rs3 s
  | .padd rd rs1 rs2 => Sys2Proof.Machine.execPadd rd rs1 rs2 s
  | .pdbl rd rs1 => Sys2Proof.Machine.execPdbl rd rs1 s
  | .pmul rd rs1 rs2 => Sys2Proof.Machine.execPmul rd rs1 rs2 s
  | .yfromx rd rs1 => Sys2Proof.Machine.execYfromx rd rs1 s
  | .i2b rs1 => Sys2Proof.Machine.execI2b rs1 s
  | .b2i rd => Sys2Proof.Machine.execB2i rd s
  | .b85e => Sys2Proof.Machine.execB85e s
  | .b85d => Sys2Proof.Machine.execB85d s
  | .a85e => Sys2Proof.Machine.execA85e s
  | .a85d => Sys2Proof.Machine.execA85d s
  | .u8e => Sys2Proof.Machine.execU8e s
  | .u8d => Sys2Proof.Machine.execU8d s

end Sys2Proof.Machine
end

