-- ==== Sys2Proof/Machine/Sequencer.lean ====
section
/-! DEFINITION. The engine's turn and the events of the agenda (spec/10_state.md R17, R40;
spec/30_encoding.md R73 to R76; spec/20_memory.md R59). -/

namespace Sys2Proof.Machine

/-- Is the opcode of a command word MODSQRT or YFROMX? Every completion of these writes SQRT_ITER_USED (R36). -/
def countsDraws (w : Word) : Bool :=
  Opcode.ofCode (opcField w) == some .modsqrt || Opcode.ofCode (opcField w) == some .yfromx

/-- The completion of a word that is no legal, well-formed command (R73 to R76): with its error, "writing nothing
else", but for SQRT_ITER_USED, which is written 0 when the opcode is MODSQRT or YFROMX (R36, R90, R107, C9). -/
def rejectCommand (e : DecodeError) (s : State) : Result :=
  raise (decodeErrCode e) (if countsDraws s.cmd then s.setSqrtUsed 0 s.entropy else s)

/-- The completion step (R40 b): "evaluates the command rule named by CMD's opcode". -/
def completion (s : State) : Result :=
  match decode s.cmd with
  | .error e => rejectCommand e s
  | .ok i => exec i s

/-- The engine's turn: the completion step in BUSY; in IDLE it waits (R40, R160; log 2). -/
def engineTurn (s : State) : Result :=
  match s.phase with
  | .idle => .next s
  | .busy => completion s

/-- One event of the agenda (R17, R59). -/
def perform (ev : Event) (s : State) : Result :=
  match ev with
  | .read size off => hostRead size off s
  | .write size off v => hostWrite size off v s
  | .engine => engineTurn s
  | .powerOn => .next s.poweredOn

end Sys2Proof.Machine
end

