-- ==== Sys2Proof/Machine/Step.lean ====
section
/-! DEFINITION. One step of the engine and its surroundings, and how one command is placed for it
(spec/10_state.md R17, R40; spec/20_memory.md R59; spec/70_reset_and_hazards.md R165). -/

namespace Sys2Proof.Machine

/-- One step: the next event of the agenda; with an empty agenda the engine's turn, so that a running command is
completed at last (R59, R165; log 1, log 2). -/
def step (s : State) : Host.Outcome State Fault Refusal :=
  match s.agenda with
  | [] => engineTurn s
  | ev :: rest => perform ev { s with agenda := rest }

/-- The state with the command of the table word w issued (R40 a) and the engine to move next (log 13). -/
def State.withFetchWord (s : State) (nbits w : Nat) : State :=
  { s.issued (BitVec.ofNat 32 (w % 2 ^ nbits)) with
    agenda := if s.agenda.isEmpty then [] else .engine :: s.agenda }

end Sys2Proof.Machine
end

