-- ==== Sys2Proof/Safety.lean ====
section
/-! DEFINITION. What holds of the machine at every moment, and what counts as a safe run: the invariant the statements
use, and what each command may write (spec/10_state.md R21, R22, R23, R29, R34, R40; spec/41_ecc.md R100). -/

namespace Sys2Proof.Machine

/-- CURVE_VALID tells the truth (R22): 1 means the curve registers hold a curve that passed the checks of R100; 0 means
no curve was constructed since reset, and then they hold their reset value 0 (R21, R44). -/
def State.curveOk (s : State) : Prop :=
  (s.curveValid = true → curveCheck s.curveP.toNat s.curveA.toNat s.curveB.toNat = none) ∧
  (s.curveValid = false → s.curveP = 0#256 ∧ s.curveA = 0#256 ∧ s.curveB = 0#256)

/-- A running command shows neither DONE nor an error code (R29, R40): issue clears both, completion alone sets
them. -/
def State.busyOk (s : State) : Prop :=
  s.phase = .busy → s.done = false ∧ s.errcode = .none

/-- The invariant: BMEM in its canonical form inside 0..4095 (R23), the curve (R22), the phase (R40), and OUT_LEN never
above the size of BMEM (R34, R56). -/
structure State.Inv (s : State) : Prop where
  bmem : s.bmem.wf
  curve : s.curveOk
  busy : s.busyOk
  outLen : s.outLen.toNat ≤ Config.bmemSize

/-- A run is safe for k steps when it meets no fault (R44, I1). -/
def safeFor (k : Nat) (s : State) : Prop :=
  ∀ n, n ≤ k → ∀ f, Host.Core.run Sys2Proof.core n s ≠ Host.Outcome.fault f

/-- The registers a command names as its destination, "written only by the command rules that name it as a
destination (rd)" (R18): a point destination is the pair (R19). -/
def destRegs : Instr → List BReg
  | .modexp rd _ _ _ => [rd]
  | .modinv rd _ _ => [rd]
  | .modsqrt rd _ _ => [rd]
  | .curveset _ _ _ => []
  | .padd rd _ _ => [rd, oddOf rd]
  | .pdbl rd _ => [rd, oddOf rd]
  | .pmul rd _ _ => [rd, oddOf rd]
  | .yfromx rd _ => [rd]
  | .i2b _ => []
  | .b2i rd => [rd]
  | .b85e => []
  | .b85d => []
  | .a85e => []
  | .a85d => []
  | .u8e => []
  | .u8d => []

/-- The codec commands that read their input from BMEM through CheckSrc (R56, R133). -/
def readsBmem : Instr → Bool
  | .b2i _ => true
  | .b85e => true
  | .b85d => true
  | .a85e => true
  | .a85d => true
  | .u8e => true
  | .u8d => true
  | .modexp _ _ _ _ => false
  | .modinv _ _ _ => false
  | .modsqrt _ _ _ => false
  | .curveset _ _ _ => false
  | .padd _ _ _ => false
  | .pdbl _ _ => false
  | .pmul _ _ _ => false
  | .yfromx _ _ => false
  | .i2b _ => false

/-- The codec commands that write their output to BMEM and its length to OUT_LEN (R34). -/
def writesBmem : Instr → Bool
  | .i2b _ => true
  | .b85e => true
  | .b85d => true
  | .a85e => true
  | .a85d => true
  | .u8e => true
  | .u8d => true
  | .b2i _ => false
  | .modexp _ _ _ _ => false
  | .modinv _ _ _ => false
  | .modsqrt _ _ _ => false
  | .curveset _ _ _ => false
  | .padd _ _ _ => false
  | .pdbl _ _ => false
  | .pmul _ _ _ => false
  | .yfromx _ _ => false

/-- The commands that may draw entropy and write SQRT_ITER_USED (R36, R40 b). -/
def takesRoot : Instr → Bool
  | .modsqrt _ _ _ => true
  | .yfromx _ _ => true
  | .modexp _ _ _ _ => false
  | .modinv _ _ _ => false
  | .curveset _ _ _ => false
  | .padd _ _ _ => false
  | .pdbl _ _ => false
  | .pmul _ _ _ => false
  | .i2b _ => false
  | .b2i _ => false
  | .b85e => false
  | .b85d => false
  | .a85e => false
  | .a85d => false
  | .u8e => false
  | .u8d => false

end Sys2Proof.Machine
end

