-- ==== Sys2Proof/Certificates/Slice0/Obligations.lean ====
section
/-! DEFINITION. The statements about the engine, each taken from the numbered rules of spec/, with the small vocabulary
they are written in: closed forms of the spec's arithmetic, independent of the model's own loops. -/

open Sys2Proof Sys2Proof.Machine

namespace Sys2Proof.Spec

/-- "ModPow(b, e, m) = 1 when e mod (m−1) = 0, else (b mod m)^(e mod (m−1)) mod m" (R81). -/
def powMod (b : Int) (e m : Nat) : Nat :=
  if e % (m - 1) = 0 then 1 else ((b % (m : Int)) ^ (e % (m - 1)) % (m : Int)).toNat

/-- The value of ModInv(g, p) for p ≥ 2 (R82): "ModInv(g, 2) = 1 for every g", else g^(p−2) mod p. -/
def invMod (g : Int) (p : Nat) : Nat := if p = 2 then 1 else (g ^ (p - 2) % (p : Int)).toNat

/-- The Lucas sequences "W_j = X·W_(j−1) − Y·W_(j−2)" from the start values W_0 and W_1 (R83). -/
def lucasSeq (X Y w0 w1 : Int) : Nat → Int
  | 0 => w0
  | 1 => w1
  | n + 2 => X * lucasSeq X Y w0 w1 (n + 1) - Y * lucasSeq X Y w0 w1 n

/-- "(U_k mod p, V_k mod p) of the Lucas sequences U_0 = 0, U_1 = 1, V_0 = 2, V_1 = X" (R83). -/
def lucasPair (X Y k p : Nat) : Nat × Nat :=
  ((lucasSeq X Y 0 1 k % (p : Int)).toNat, (lucasSeq X Y 2 X k % (p : Int)).toNat)

/-- The formulas of the source's `add` (R101), on integers, with the closed form of ModInv. -/
def addPoints (P1 P2 : Nat × Nat) (a p : Nat) : Nat × Nat :=
  if P1 = (0, 0) then P2
  else if P2 = (0, 0) then P1
  else
    let lam : Int :=
      (if P1.1 = P2.1 then (3 * (P1.1 : Int) ^ 2 + a) * invMod (2 * P1.2) p
       else ((P2.2 : Int) - P1.2) * invMod ((P2.1 : Int) - P1.1) p) % (p : Int)
    let x3 : Int := (lam ^ 2 - P1.1 - P2.1) % (p : Int)
    let y3 : Int := (lam * (P1.1 - x3) - P1.2) % (p : Int)
    (x3.toNat, y3.toNat)

/-- A pair of residues on the curve y² = x³ + ax + b mod p (R16, R21). -/
def onCurve (P : Nat × Nat) (a b p : Nat) : Prop :=
  P.1 < p ∧ P.2 < p ∧ P.2 ^ 2 % p = (P.1 ^ 3 + a * P.1 + b) % p

/-- `BE(s)`, "BE([]) = 0, BE(s) = Σ s[i]·256^(len(s)−1−i)" (R10). -/
def be : List Byte → Nat
  | [] => 0
  | b :: bs => b.toNat * 256 ^ bs.length + be bs

/-- Word q of a byte sequence cut into 4-byte big-endian words (R122, R129). -/
def word (t : List Byte) (q : Nat) : Nat := be ((t.drop (4 * q)).take 4)

/-- "s ++ [k, k, ..., k]", with k = 4 − (len(s) mod 4) bytes of the value k (R122). -/
def pad (bs : List Byte) : List Byte :=
  bs ++ List.replicate (4 - bs.length % 4) (BitVec.ofNat 8 (4 - bs.length % 4))

/-- `out` is the text of `bs` in the variant whose symbol map is `sym` (R122): for word q, symbol j is the symbol of the
digit (w div 85^(4−j)) mod 85. -/
def Encodes85 (sym : Nat → Byte) (bs out : List Byte) : Prop :=
  out.length = 5 * (bs.length / 4 + 1) ∧
  ∀ q j, q < bs.length / 4 + 1 → j < 5 → out[5 * q + j]? = some (sym (word (pad bs) q / 85 ^ (4 - j) % 85))

/-- R123 accepts `text` and gives `out`: the text is a positive number of groups of five symbols of the alphabet, each
group's positional sum is below 2^32 and is a word of the buffer t, the last byte k of t is 1 to 4, and out is t
without its last k bytes. -/
def Decodes85 (sym : Nat → Byte) (text out : List Byte) : Prop :=
  ∃ t : List Byte, 0 < text.length ∧ 5 * t.length = 4 * text.length ∧
    (∀ q, 5 * q < text.length → ∃ d : Fin 5 → Fin 85, (∀ j : Fin 5, text[5 * q + j.val]? = some (sym (d j))) ∧
      word t q = (d 0).val * 85 ^ 4 + (d 1).val * 85 ^ 3 + (d 2).val * 85 ^ 2 + (d 3).val * 85 + (d 4).val) ∧
    ∃ k : Fin 5, 1 ≤ k.val ∧ t.getLast? = some (BitVec.ofNat 8 k.val) ∧ out = t.take (t.length - k.val)

/-- The digit d of the ASCII85-style variant is the byte d + 33, "chr(digit+33)" (R124). -/
def ascii85 (d : Nat) : Byte := BitVec.ofNat 8 (d + 33)

/-- The bit patterns of R129: 0xxxxxxx, `110xxxxx 10xxxxxx`, `1110xxxx 10xxxxxx 10xxxxxx` and
`11110xxx 10xxxxxx 10xxxxxx 10xxxxxx`, the x bits being "the bits of c, most significant first". -/
def utf8 (c : Nat) : List Byte :=
  let v := BitVec.ofNat 21 c
  if c ≤ 0x7F then [0#1 ++ v.extractLsb' 0 7]
  else if c ≤ 0x7FF then [0b110#3 ++ v.extractLsb' 6 5, 0b10#2 ++ v.extractLsb' 0 6]
  else if c ≤ 0xFFFF then
    [0b1110#4 ++ v.extractLsb' 12 4, 0b10#2 ++ v.extractLsb' 6 6, 0b10#2 ++ v.extractLsb' 0 6]
  else
    [0b11110#5 ++ v.extractLsb' 18 3, 0b10#2 ++ v.extractLsb' 12 6, 0b10#2 ++ v.extractLsb' 6 6,
     0b10#2 ++ v.extractLsb' 0 6]

/-- A code point as a 4-byte big-endian word (R129). -/
def codePointBytes (c : Nat) : List Byte :=
  let v := BitVec.ofNat 32 c
  [v.extractLsb' 24 8, v.extractLsb' 16 8, v.extractLsb' 8 8, v.extractLsb' 0 8]

/-- Every code point of a text is at most 0x10FFFF (R129). -/
def Text (cps : List Nat) : Prop := ∀ c ∈ cps, c ≤ 0x10FFFF

/-- The input range of a codec command lies inside BMEM and holds the written bytes `bs` (R56, R133). -/
def Input (s : State) (bs : List Byte) : Prop :=
  s.srcAddr.toNat + s.srcLen.toNat ≤ 4096 ∧ bs.length = s.srcLen.toNat ∧
  ∀ i, i < s.srcLen.toNat → s.bmem.readByte (s.srcAddr.toNat + i) = bs[i]?

/-- The state after a codec command that writes `out` at DST_ADDR and completes without error (R34, R40 b). -/
def stored (s : State) (out : List Byte) : State :=
  { s with
    bmem := s.bmem.writeBytes s.dstAddr.toNat out, outLen := BitVec.ofNat 32 out.length
    errcode := .none, done := true, phase := .idle }

/-- The state after a command that completes with the error `e`: "the state before the command plus exactly those
writes" (R138). -/
def failed (s : State) (e : ErrCode) : State := { s with errcode := e, done := true, phase := .idle }

/-- The state after a command that writes v to B[rd] and completes without error (R40 b). -/
def wrote (s : State) (rd : BReg) (v : Nat) : State :=
  { s with
    regs := s.regs.set rd.val (BitVec.ofNat 256 v) rd.isLt
    errcode := .none, done := true, phase := .idle }

/-- The state after a command that writes the point P to (B[rd], B[rd+1]) and completes without error (R19, R40 b). -/
def wrotePoint (s : State) (rd : BReg) (P : Nat × Nat) : State :=
  { s with
    regs := (s.regs.set rd.val (BitVec.ofNat 256 P.1) rd.isLt).set (rd + 1).val (BitVec.ofNat 256 P.2) (rd + 1).isLt
    errcode := .none, done := true, phase := .idle }

/-- The OPC column of the opcode map (R72). -/
def opcodes : List (BitVec 8) :=
  [0x01#8, 0x02#8, 0x03#8, 0x10#8, 0x11#8, 0x12#8, 0x13#8, 0x14#8, 0x20#8, 0x21#8, 0x30#8, 0x31#8, 0x32#8, 0x33#8,
   0x40#8, 0x41#8]

end Sys2Proof.Spec

open Sys2Proof.Spec

/-! ## Encoding and decoding -/

/-- Words written out in the spec (the examples of R78, R88 to R90, R103 to R107, R125 to R135) decode to the commands
they stand for. -/
def Obligations.WrittenOutWordsDecode : Prop :=
  decode 0x00210301#32 = .ok (.modexp 3 0 1 2) ∧ decode 0x00010202#32 = .ok (.modinv 2 0 1) ∧
  decode 0x00010203#32 = .ok (.modsqrt 2 0 1) ∧ decode 0x00210010#32 = .ok (.curveset 0 1 2) ∧
  decode 0x00020411#32 = .ok (.padd 4 0 2) ∧ decode 0x00000212#32 = .ok (.pdbl 2 0) ∧
  decode 0x00060413#32 = .ok (.pmul 4 0 6) ∧ decode 0x00007814#32 = .ok (.yfromx 8 7) ∧
  decode 0x00002020#32 = .ok (.i2b 2) ∧ decode 0x00000521#32 = .ok (.b2i 5) ∧
  decode 0x00000030#32 = .ok .b85e ∧ decode 0x00000031#32 = .ok .b85d ∧
  decode 0x00000032#32 = .ok .a85e ∧ decode 0x00000033#32 = .ok .a85d ∧
  decode 0x00000040#32 = .ok .u8e ∧ decode 0x00000041#32 = .ok .u8d

/-- Decoding the encoding of a well-formed command gives it back, whatever its register fields (R70, R72, R78). -/
def Obligations.DecodeOfEncodeIsTheCommand : Prop :=
  ∀ i : Instr, i.wellFormed = true → decode (encode i) = .ok i

/-- "every legal command has exactly one encoding" (D12): a word that decodes is the encoding of what it decodes to. -/
def Obligations.EncodeOfDecodeIsTheWord : Prop :=
  ∀ (w : Word) (i : Instr), decode w = .ok i → encode i = w ∧ i.wellFormed = true

/-- R76, whole: an illegal OPC is illegal whatever the other bits are; R74 is checked before R75; a word is a command
exactly when it matches its row of opcode_table.json, else an OPERAND error; only then does the command's rule run. That
it runs in the step taken with an empty agenda is the model's own (log 2). -/
def Obligations.DecodingFollowsTheOpcodeTable : Prop :=
  ∀ w : Word,
    (opcField w ∉ opcodes → decode w = .error .illegalOpcode) ∧
    ∀ o : Opcode, opcField w = o.code →
      ((∃ i, decode w = .ok i ∧ i.opcode = o) ↔ w &&& o.mask = o.matchWord) ∧
      (w &&& o.mask ≠ o.matchWord → ∃ e, decode w = .error e ∧ decodeErrCode e = .operand) ∧
      (zeroFieldsOk o w = false → decode w = .error .nonzeroField) ∧
      (zeroFieldsOk o w = true → pointFieldsOk o w = false → decode w = .error .oddPoint) ∧
      ∀ s : State, s.phase = .busy → s.agenda = [] → s.cmd = w → w &&& o.mask = o.matchWord →
        ∃ i, i.opcode = o ∧ step s = exec i s

/-- R73: a word whose OPC is not in the map "is accepted (BUSY goes to 1 as for any command) and completes with error
ILLEGAL_OPCODE", "writing nothing else". -/
def Obligations.IllegalOpcodeIsAcceptedAndCompletes : Prop :=
  ∀ (s : State) (w : Word) (rest : List Event),
    s.phase = .idle → s.agenda = .write .word 0x000C#13 w :: .engine :: rest → opcField w ∉ opcodes →
    ∃ t : State,
      t = { s with agenda := .engine :: rest, cmd := w, done := false, errcode := .none, phase := .busy } ∧
      step s = .next t ∧
      step t = .next { t with agenda := rest, errcode := .illegalOpcode, done := true, phase := .idle }

/-- R74 and R75: for a legal OPC, a nonzero RSV or unused field, or an odd point field, completes with OPERAND, writing
nothing else but, for MODSQRT and YFROMX, 0 to SQRT_ITER_USED (R36, R40, R90, R107, C9). That the completion is the step
taken with an empty agenda is the model's own (log 2). -/
def Obligations.BadFieldsAreOperandErrors : Prop :=
  ∀ (s : State) (o : Opcode),
    s.phase = .busy → s.agenda = [] → opcField s.cmd = o.code →
    (rsvField s.cmd ≠ 0#8 ∨
      (o.uses.rd = .unused ∧ rdField s.cmd ≠ 0) ∨ (o.uses.rs1 = .unused ∧ rs1Field s.cmd ≠ 0) ∨
      (o.uses.rs2 = .unused ∧ rs2Field s.cmd ≠ 0) ∨ (o.uses.rs3 = .unused ∧ rs3Field s.cmd ≠ 0) ∨
      (o.uses.rd = .point ∧ (rdField s.cmd).val % 2 = 1) ∨ (o.uses.rs1 = .point ∧ (rs1Field s.cmd).val % 2 = 1) ∨
      (o.uses.rs2 = .point ∧ (rs2Field s.cmd).val % 2 = 1) ∨
      (o.uses.rs3 = .point ∧ (rs3Field s.cmd).val % 2 = 1)) →
    step s = .next { s with
      errcode := .operand, done := true, phase := .idle
      sqrtIterUsed := if o = .modsqrt ∨ o = .yfromx then 0#16 else s.sqrtIterUsed }

/-! ## Steps, completion and invariants -/

/-- R40 b: when the engine's turn comes and CMD decodes to a command, the step is that command's completion; with
nothing running the engine waits (R160). The agenda is the model's own (log 1, log 2). -/
def Obligations.StepRunsTheDecodedCommand : Prop :=
  (∀ (s : State) (i : Instr), s.phase = .busy → decode s.cmd = .ok i → s.agenda = [] → step s = exec i s) ∧
  (∀ (s : State) (i : Instr) (rest : List Event), s.phase = .busy → decode s.cmd = .ok i →
    s.agenda = .engine :: rest → step s = exec i { s with agenda := rest }) ∧
  (∀ s : State, s.phase = .idle → s.agenda = [] → step s = .next s)

/-- R165: "the engine is never stuck in BUSY". After the events of the agenda and one more step, no command is running,
unless a step stopped on an unwritten byte. The last turn with an empty agenda is the model's own (log 2). -/
def Obligations.RunningCommandIsCompletedAtLast : Prop :=
  ∀ s t : State, Host.Core.run Sys2Proof.core (s.agenda.length + 1) s = .next t → t.phase = .idle ∧ t.agenda = []

/-- Every step keeps the invariant of Safety.lean: BMEM canonical and inside its 4096 bytes (R23), CURVE_VALID telling
the truth about the curve registers (R21, R22), no DONE and no error code while BUSY (R29, R40), OUT_LEN at most 4096. -/
def Obligations.StepKeepsTheInvariant : Prop :=
  ∀ s t : State, s.Inv → step s = .next t → t.Inv

/-- The power-on state meets the invariant. -/
def Obligations.PowerOnStateMeetsTheInvariant : Prop := State.reset.Inv

/-- R40 b and R29: a completion ends the command with DONE = 1 in IDLE and leaves every flag and control register that
no command writes. -/
def Obligations.CompletionEndsTheCommand : Prop :=
  ∀ (i : Instr) (s t : State), exec i s = .next t →
    t.phase = .idle ∧ t.done = true ∧ t.ie = s.ie ∧ t.ovr = s.ovr ∧ t.buserr = s.buserr ∧ t.cmd = s.cmd ∧
    t.srcAddr = s.srcAddr ∧ t.srcLen = s.srcLen ∧ t.dstAddr = s.dstAddr ∧ t.sqrtIterMax = s.sqrtIterMax ∧
    t.readData = s.readData ∧ t.agenda = s.agenda

/-- R138: a completion with an error changes ERRCODE, DONE, BUSY and, for MODSQRT and YFROMX, SQRT_ITER_USED, which then
is the number of draws made (R36); nothing else (the entropy source is outside the engine, log 3). -/
def Obligations.FailingCommandCommitsNothing : Prop :=
  ∀ s t : State, completion s = .next t → t.errcode ≠ .none →
    t = { s with
      errcode := t.errcode, done := true, phase := .idle, sqrtIterUsed := t.sqrtIterUsed, entropy := t.entropy } ∧
    (opcField s.cmd ≠ 0x03#8 → opcField s.cmd ≠ 0x14#8 →
      t.sqrtIterUsed = s.sqrtIterUsed ∧ t.entropy = s.entropy) ∧
    (opcField s.cmd = 0x03#8 ∨ opcField s.cmd = 0x14#8 →
      t.entropy.drawn = s.entropy.drawn + t.sqrtIterUsed.toNat)

/-- R21 and R22: the curve registers and CURVE_VALID change only at a CURVESET that completes without error, which
loads its operands, and at a reset, which clears them. -/
def Obligations.CurveChangesOnlyByCurvesetOrReset : Prop :=
  ∀ s t : State, step s = .next t →
    (t.curveP = s.curveP ∧ t.curveA = s.curveA ∧ t.curveB = s.curveB ∧ t.curveValid = s.curveValid) ∨
    ((s.agenda.head? = some .powerOn ∨ ∃ v : Word, v.getLsbD 0 = true ∧
        s.agenda.head? = some (.write .word 0x0004#13 v)) ∧
      t.curveP = 0#256 ∧ t.curveA = 0#256 ∧ t.curveB = 0#256 ∧ t.curveValid = false) ∨
    ((s.agenda = [] ∨ s.agenda.head? = some .engine) ∧ s.phase = .busy ∧ t.errcode = .none ∧
      ∃ rs1 rs2 rs3, decode s.cmd = .ok (.curveset rs1 rs2 rs3) ∧
        t.curveP = s.reg rs1 ∧ t.curveA = s.reg rs2 ∧ t.curveB = s.reg rs3 ∧ t.curveValid = true)

/-- R23 and R34: a command changes BMEM and OUT_LEN only when it is one of I2B, B85E, B85D, A85E, A85D, U8E and U8D and
completes without error, and then only the OUT_LEN bytes from DST_ADDR on, which lie inside BMEM. -/
def Obligations.OnlyTheOutputRangeOfBmemChanges : Prop :=
  ∀ (i : Instr) (s t : State), exec i s = .next t →
    (writesBmem i = false ∨ t.errcode ≠ .none → t.bmem = s.bmem ∧ t.outLen = s.outLen) ∧
    (writesBmem i = true → t.errcode = .none →
      s.dstAddr.toNat + t.outLen.toNat ≤ 4096 ∧
      (∀ k, k < t.outLen.toNat → t.bmem.readByte (s.dstAddr.toNat + k) ≠ none) ∧
      ∀ a, a < s.dstAddr.toNat ∨ s.dstAddr.toNat + t.outLen.toNat ≤ a → t.bmem.readByte a = s.bmem.readByte a)

/-- R18: the registers "written only by the command rules that name it as a destination (rd)" keep their value in every
other command, and in every command that fails. -/
def Obligations.RegistersOutsideTheDestinationKeepTheirValue : Prop :=
  ∀ (i : Instr) (s t : State), exec i s = .next t →
    ∀ j : BReg, j ∉ destRegs i ∨ t.errcode ≠ .none → t.reg j = s.reg j

/-- R36: only MODSQRT and YFROMX write SQRT_ITER_USED; they write the number of draws they made, at most SQRT_ITER_MAX,
and use up as many draws of the entropy source (log 3). -/
def Obligations.AttemptCountIsTheNumberOfDraws : Prop :=
  ∀ (i : Instr) (s t : State), exec i s = .next t →
    (takesRoot i = false → t.sqrtIterUsed = s.sqrtIterUsed ∧ t.entropy = s.entropy) ∧
    (takesRoot i = true →
      t.sqrtIterUsed.toNat ≤ s.sqrtIterMax.toNat ∧
      t.entropy.drawn = s.entropy.drawn + t.sqrtIterUsed.toNat ∧
      t.entropy.supply = s.entropy.supply.drop t.sqrtIterUsed.toNat)

/-- No command is refused, and the only stop is the read of an input byte of a codec command that was never written
since power-on (R44, R133); such a byte in an input range inside BMEM always stops the command, and the stop names the
lowest one (log 6). That nothing else stops is the model's choice: R44 and I1 make the read of an
unwritten register a fault too, but here B0..B15 hold 0 at power-on and reading one never faults (log 5). -/
def Obligations.CommandsStopOnlyOnUnwrittenInput : Prop :=
  ∀ (i : Instr) (s : State),
    (∀ r, exec i s ≠ .refused r) ∧
    (∀ f, exec i s = .fault f → readsBmem i = true ∧ s.srcAddr.toNat + s.srcLen.toNat ≤ 4096 ∧
      ∃ a, f = .unwrittenByte a ∧ s.srcAddr.toNat ≤ a ∧ a < s.srcAddr.toNat + s.srcLen.toNat ∧
        s.bmem.readByte a = none) ∧
    ∀ a, readsBmem i = true → s.srcAddr.toNat + s.srcLen.toNat ≤ 4096 →
      s.srcAddr.toNat ≤ a → a < s.srcAddr.toNat + s.srcLen.toNat → s.bmem.readByte a = none →
      (∀ b, s.srcAddr.toNat ≤ b → b < a → s.bmem.readByte b ≠ none) →
      exec i s = .fault (.unwrittenByte a)

/-- Two memories in canonical form with the same bytes are the same data (R23; the form is the model's own). -/
def Obligations.CanonicalMemoryIsDeterminedByItsBytes : Prop :=
  ∀ m n : Memory, m.wf → n.wf → (∀ a, m.readByte a = n.readByte a) → m = n

/-! ## Modular arithmetic -/

/-- R81: the square-and-multiply loop computes the power with the reduced exponent, for every base (negative ones too)
and every modulus m ≥ 2, and the result is always in [0, m). -/
def Obligations.ModPowIsThePowerWithReducedExponent : Prop :=
  ∀ (b : Int) (e m : Nat), 2 ≤ m → modPow b e m = powMod b e m ∧ modPow b e m < m

/-- R88: MODEXP writes ModPow(b, e, m) to B[RD] for m ≥ 2, and completes with MODULUS for m < 2. -/
def Obligations.ModexpResult : Prop :=
  ∀ (rd rs1 rs2 rs3 : BReg) (s : State),
    (2 ≤ s.num rs3 →
      exec (.modexp rd rs1 rs2 rs3) s = .next (wrote s rd (powMod (s.num rs1) (s.num rs2) (s.num rs3)))) ∧
    (s.num rs3 < 2 → exec (.modexp rd rs1 rs2 rs3) s = .next (failed s .modulus))

/-- R89: MODINV writes ModInv(g, p) to B[RD] for p ≥ 2, also for g ≡ 0 and for composite p, and completes with MODULUS
for p < 2. -/
def Obligations.ModinvResult : Prop :=
  ∀ (rd rs1 rs2 : BReg) (s : State),
    (2 ≤ s.num rs2 → exec (.modinv rd rs1 rs2) s = .next (wrote s rd (invMod (s.num rs1) (s.num rs2)))) ∧
    (s.num rs2 < 2 → exec (.modinv rd rs1 rs2) s = .next (failed s .modulus))

/-- R82 and R91 e: "for prime p and g ≢ 0, g·ModInv(g, p) ≡ 1 (mod p)". -/
def Obligations.ModinvInvertsModuloPrimes : Prop :=
  ∀ (rd rs1 rs2 : BReg) (s : State), (s.num rs2).Prime → ¬ s.num rs2 ∣ s.num rs1 →
    ∃ t, exec (.modinv rd rs1 rs2) s = .next t ∧ t.errcode = .none ∧ t.num rd < s.num rs2 ∧
      s.num rs1 * t.num rd % s.num rs2 = 1

/-- R83: for an odd prime p the procedure returns the Lucas pair of index k modulo p. -/
def Obligations.LucasProcedureComputesTheSequence : Prop :=
  ∀ X Y k p : Nat, p.Prime → p ≠ 2 → 1 ≤ k → lucas X Y k p = lucasPair X Y k p

/-- R84, R85, R86 and R90: MODSQRT with p < 3 or even is MODULUS; for p ≡ 3 (mod 4) and p ≡ 5 (mod 8) it computes the
source's formulas, without a draw, for every p, prime or not. -/
def Obligations.DeterministicRootsFollowTheirFormulas : Prop :=
  ∀ (rd rs1 rs2 : BReg) (s : State) (g p u : Nat), g = s.num rs1 → p = s.num rs2 → u = (p - 5) / 8 →
    (p < 3 ∨ p % 2 = 0 →
      exec (.modsqrt rd rs1 rs2) s = .next (failed { s with sqrtIterUsed := 0#16 } .modulus)) ∧
    (p % 4 = 3 →
      (g ^ ((p + 1) / 4) % p) ^ 2 % p = g % p →
      exec (.modsqrt rd rs1 rs2) s = .next (wrote { s with sqrtIterUsed := 0#16 } rd (g ^ ((p + 1) / 4) % p))) ∧
    (p % 4 = 3 →
      (g ^ ((p + 1) / 4) % p) ^ 2 % p ≠ g % p →
      exec (.modsqrt rd rs1 rs2) s = .next (failed { s with sqrtIterUsed := 0#16 } .noSqrt)) ∧
    (p % 8 = 5 → g ^ (2 * u + 1) % p = 1 →
      exec (.modsqrt rd rs1 rs2) s = .next (wrote { s with sqrtIterUsed := 0#16 } rd (g ^ (u + 1) % p))) ∧
    (p % 8 = 5 → g ^ (2 * u + 1) % p = p - 1 →
      exec (.modsqrt rd rs1 rs2) s =
        .next (wrote { s with sqrtIterUsed := 0#16 } rd (2 * g % p * ((4 * g) ^ u % p) % p))) ∧
    (p % 8 = 5 → g ^ (2 * u + 1) % p ≠ 1 → g ^ (2 * u + 1) % p ≠ p - 1 →
      exec (.modsqrt rd rs1 rs2) s = .next (failed { s with sqrtIterUsed := 0#16 } .noSqrt))

/-- R87 and R90: for p ≡ 1 (mod 8) the draws decide. After the draws `xs`, none conclusive, the next draw x succeeds or
detects a non-residue, if an attempt is left; when SQRT_ITER_MAX attempts were inconclusive the command completes with
SQRT_ITER. The draws are those the entropy source has laid out (log 3), taken mod p (log 4). -/
def Obligations.ProbabilisticRootFollowsTheDraws : Prop :=
  ∀ (rd rs1 rs2 : BReg) (s : State) (g p : Nat) (UV : Nat → Nat × Nat) (xs rest : List Nat),
    g = s.num rs1 → p = s.num rs2 → 3 ≤ p → p % 8 = 1 →
    (∀ x, UV x = lucas (x % p) g ((p + 1) / 2) p) →
    (∀ x ∈ xs, (UV x).2 ^ 2 % p ≠ 4 * g % p ∧ ((UV x).1 = 1 ∨ (UV x).1 = p - 1)) →
    (∀ x, s.entropy.supply = xs ++ x :: rest → xs.length < s.sqrtIterMax.toNat →
      (UV x).2 ^ 2 % p = 4 * g % p →
      exec (.modsqrt rd rs1 rs2) s = .next (wrote { s with
        sqrtIterUsed := BitVec.ofNat 16 (xs.length + 1)
        entropy := ⟨rest, s.entropy.drawn + xs.length + 1⟩ } rd ((UV x).2 * invMod 2 p % p))) ∧
    (∀ x, s.entropy.supply = xs ++ x :: rest → xs.length < s.sqrtIterMax.toNat →
      (UV x).2 ^ 2 % p ≠ 4 * g % p → (UV x).1 ≠ 1 → (UV x).1 ≠ p - 1 →
      exec (.modsqrt rd rs1 rs2) s = .next (failed { s with
        sqrtIterUsed := BitVec.ofNat 16 (xs.length + 1)
        entropy := ⟨rest, s.entropy.drawn + xs.length + 1⟩ } .noSqrt)) ∧
    (s.entropy.supply = xs ++ rest → xs.length = s.sqrtIterMax.toNat →
      exec (.modsqrt rd rs1 rs2) s = .next (failed { s with
        sqrtIterUsed := s.sqrtIterMax
        entropy := ⟨rest, s.entropy.drawn + xs.length⟩ } .sqrtIter))

/-- R91 e: for an odd prime p, whatever the draws, a MODSQRT that completes without error returns a square root. -/
def Obligations.RootsAreSquareRootsModuloPrimes : Prop :=
  ∀ (rd rs1 rs2 : BReg) (s t : State), (s.num rs2).Prime → s.num rs2 ≠ 2 →
    exec (.modsqrt rd rs1 rs2) s = .next t → t.errcode = .none →
    t.num rd < s.num rs2 ∧ t.num rd ^ 2 % s.num rs2 = s.num rs1 % s.num rs2

/-- R85, R86 and R91 e: for a prime p ≡ 3 (mod 4) or p ≡ 5 (mod 8), every nonzero residue gets a root without a draw,
and every non-residue completes with NO_SQRT. -/
def Obligations.DeterministicBranchesDecideResidues : Prop :=
  ∀ (rd rs1 rs2 : BReg) (s : State) (g p : Nat), g = s.num rs1 → p = s.num rs2 → p.Prime →
    p % 4 = 3 ∨ p % 8 = 5 →
    (g % p ≠ 0 → (∃ x, x ^ 2 % p = g % p) →
      ∃ y, y < p ∧ y ^ 2 % p = g % p ∧
        exec (.modsqrt rd rs1 rs2) s = .next (wrote { s with sqrtIterUsed := 0#16 } rd y)) ∧
    ((¬ ∃ x, x ^ 2 % p = g % p) →
      exec (.modsqrt rd rs1 rs2) s = .next (failed { s with sqrtIterUsed := 0#16 } .noSqrt))

/-! ## The curve -/

/-- R100 and R103: CURVESET loads the curve registers as given when p ≥ 2 and the discriminant is not 0 mod p; else it
completes with MODULUS or SINGULAR and keeps the previous curve. -/
def Obligations.CurvesetChecksAndLoadsTheCurve : Prop :=
  ∀ (rs1 rs2 rs3 : BReg) (s : State) (p a b : Nat), p = s.num rs1 → a = s.num rs2 → b = s.num rs3 →
    (2 ≤ p → (4 * a ^ 3 + 27 * b ^ 2) % p ≠ 0 →
      exec (.curveset rs1 rs2 rs3) s = .next { s with
        curveP := s.reg rs1, curveA := s.reg rs2, curveB := s.reg rs3, curveValid := true
        errcode := .none, done := true, phase := .idle }) ∧
    (p < 2 → exec (.curveset rs1 rs2 rs3) s = .next (failed s .modulus)) ∧
    (2 ≤ p → (4 * a ^ 3 + 27 * b ^ 2) % p = 0 →
      exec (.curveset rs1 rs2 rs3) s = .next (failed s .singular))

/-- R101 and R104: with a curve, PADD writes the source's `add` of its two points, read before any write, to the pair of
RD; this includes the sentinels, opposite points and unreduced operands. -/
def Obligations.PaddResult : Prop :=
  ∀ (rd rs1 rs2 : BReg) (s : State), (Instr.padd rd rs1 rs2).wellFormed = true → s.curveValid = true → s.curveOk →
    exec (.padd rd rs1 rs2) s =
      .next (wrotePoint s rd (addPoints (s.num rs1, s.num (rs1 + 1)) (s.num rs2, s.num (rs2 + 1))
        s.curveA.toNat s.curveP.toNat))

/-- R105: with a curve, PDBL writes the source's `add` of its point with itself. -/
def Obligations.PdblResult : Prop :=
  ∀ (rd rs1 : BReg) (s : State), (Instr.pdbl rd rs1).wellFormed = true → s.curveValid = true → s.curveOk →
    exec (.pdbl rd rs1) s =
      .next (wrotePoint s rd (addPoints (s.num rs1, s.num (rs1 + 1)) (s.num rs1, s.num (rs1 + 1))
        s.curveA.toNat s.curveP.toNat))

/-- R102 and R106: with a curve, PMUL writes the value of the binary double-and-add over the bits of its scalar, the
function M with M(0) = (0, 0), M(2k) = M(k) + M(k) and M(2k+1) = (M(k) + M(k)) + P, where + is the source's `add`. -/
def Obligations.PmulResult : Prop :=
  ∀ (rd rs1 rs2 : BReg) (s : State) (a p : Nat) (P : Nat × Nat), (Instr.pmul rd rs1 rs2).wellFormed = true →
    s.curveValid = true → s.curveOk → a = s.curveA.toNat → p = s.curveP.toNat →
    P = (s.num rs1, s.num (rs1 + 1)) →
    ∃ M : Nat → Nat × Nat, M 0 = (0, 0) ∧
      (∀ k, M (2 * k) = addPoints (M k) (M k) a p) ∧
      (∀ k, M (2 * k + 1) = addPoints (addPoints (M k) (M k) a p) P a p) ∧
      exec (.pmul rd rs1 rs2) s = .next (wrotePoint s rd (M (s.num rs2)))

/-- R102 and R106, corner cases: "k = 0 gives (0, 0); k = 1 gives P exactly as given (unreduced); P = (0, 0) gives
(0, 0) for every k". -/
def Obligations.PmulCornerScalars : Prop :=
  ∀ (rd rs1 rs2 : BReg) (s : State), (Instr.pmul rd rs1 rs2).wellFormed = true → s.curveValid = true →
    (s.num rs2 = 0 → exec (.pmul rd rs1 rs2) s = .next (wrotePoint s rd (0, 0))) ∧
    (s.num rs2 = 1 → exec (.pmul rd rs1 rs2) s = .next (wrotePoint s rd (s.num rs1, s.num (rs1 + 1)))) ∧
    (s.num rs1 = 0 → s.num (rs1 + 1) = 0 → exec (.pmul rd rs1 rs2) s = .next (wrotePoint s rd (0, 0)))

/-- R101 and C1: two points with the same x, neither of them the sentinel, are added as a doubling of the first, so
opposite points do not give (0, 0). -/
def Obligations.SameXIsAddedAsADoubling : Prop :=
  ∀ (rd rs1 rs2 : BReg) (s : State), (Instr.padd rd rs1 rs2).wellFormed = true →
    s.num rs1 = s.num rs2 → (s.num rs1, s.num (rs1 + 1)) ≠ (0, 0) → (s.num rs2, s.num (rs2 + 1)) ≠ (0, 0) →
    exec (.padd rd rs1 rs2) s = exec (.pdbl rd rs1) s

/-- R16 and R101: over an odd prime p, the chord of two points of the curve with different x, and the tangent at a point
with y ≠ 0, give a point of the curve. -/
def Obligations.SumsStayOnTheCurve : Prop :=
  ∀ (rd rs1 rs2 : BReg) (s : State) (a b p : Nat), (Instr.padd rd rs1 rs2).wellFormed = true →
    s.curveValid = true → a = s.curveA.toNat → b = s.curveB.toNat → p = s.curveP.toNat → p.Prime → p ≠ 2 →
    onCurve (s.num rs1, s.num (rs1 + 1)) a b p → onCurve (s.num rs2, s.num (rs2 + 1)) a b p →
    (s.num rs1 ≠ s.num rs2 ∨ s.num (rs1 + 1) = s.num (rs2 + 1) ∧ s.num (rs1 + 1) ≠ 0) →
    ∃ t, exec (.padd rd rs1 rs2) s = .next t ∧ t.errcode = .none ∧
      onCurve (t.num rd, t.num (rd + 1)) a b p

/-- R107: YFROMX is MODSQRT of the right-hand side g = (x³ + ax + b) mod p modulo the curve's p, in every branch and in
every state with a curve. Where two registers hold g and p, the two commands complete alike. In any case p < 3 or even is
MODULUS, the deterministic branches give their root or NO_SQRT (R85, R86), and for p ≡ 1 (mod 8) the draws decide, as for
MODSQRT (R87): after the draws `xs`, none conclusive, the next draw x succeeds or detects a non-residue, and
SQRT_ITER_MAX inconclusive attempts are SQRT_ITER. The draws are those the entropy source has laid out (log 3), taken
mod p (log 4). -/
def Obligations.YfromxIsModsqrtOfTheRightHandSide : Prop :=
  ∀ (rd rs1 : BReg) (s : State) (g p u : Nat), s.curveValid = true → p = s.curveP.toNat →
    g = (s.num rs1 ^ 3 + s.curveA.toNat * s.num rs1 + s.curveB.toNat) % p → u = (p - 5) / 8 →
    (∀ rg rp : BReg, s.num rg = g → s.num rp = p → exec (.yfromx rd rs1) s = exec (.modsqrt rd rg rp) s) ∧
    (p < 3 ∨ p % 2 = 0 →
      exec (.yfromx rd rs1) s = .next (failed { s with sqrtIterUsed := 0#16 } .modulus)) ∧
    (p % 4 = 3 → (g ^ ((p + 1) / 4) % p) ^ 2 % p = g →
      exec (.yfromx rd rs1) s = .next (wrote { s with sqrtIterUsed := 0#16 } rd (g ^ ((p + 1) / 4) % p))) ∧
    (p % 4 = 3 → (g ^ ((p + 1) / 4) % p) ^ 2 % p ≠ g →
      exec (.yfromx rd rs1) s = .next (failed { s with sqrtIterUsed := 0#16 } .noSqrt)) ∧
    (p % 8 = 5 → g ^ (2 * u + 1) % p = 1 →
      exec (.yfromx rd rs1) s = .next (wrote { s with sqrtIterUsed := 0#16 } rd (g ^ (u + 1) % p))) ∧
    (p % 8 = 5 → g ^ (2 * u + 1) % p = p - 1 →
      exec (.yfromx rd rs1) s =
        .next (wrote { s with sqrtIterUsed := 0#16 } rd (2 * g % p * ((4 * g) ^ u % p) % p))) ∧
    (p % 8 = 5 → g ^ (2 * u + 1) % p ≠ 1 → g ^ (2 * u + 1) % p ≠ p - 1 →
      exec (.yfromx rd rs1) s = .next (failed { s with sqrtIterUsed := 0#16 } .noSqrt)) ∧
    ∀ (UV : Nat → Nat × Nat) (xs rest : List Nat), 3 ≤ p → p % 8 = 1 →
      (∀ x, UV x = lucas (x % p) g ((p + 1) / 2) p) →
      (∀ x ∈ xs, (UV x).2 ^ 2 % p ≠ 4 * g % p ∧ ((UV x).1 = 1 ∨ (UV x).1 = p - 1)) →
      (∀ x, s.entropy.supply = xs ++ x :: rest → xs.length < s.sqrtIterMax.toNat →
        (UV x).2 ^ 2 % p = 4 * g % p →
        exec (.yfromx rd rs1) s = .next (wrote { s with
          sqrtIterUsed := BitVec.ofNat 16 (xs.length + 1)
          entropy := ⟨rest, s.entropy.drawn + xs.length + 1⟩ } rd ((UV x).2 * invMod 2 p % p))) ∧
      (∀ x, s.entropy.supply = xs ++ x :: rest → xs.length < s.sqrtIterMax.toNat →
        (UV x).2 ^ 2 % p ≠ 4 * g % p → (UV x).1 ≠ 1 → (UV x).1 ≠ p - 1 →
        exec (.yfromx rd rs1) s = .next (failed { s with
          sqrtIterUsed := BitVec.ofNat 16 (xs.length + 1)
          entropy := ⟨rest, s.entropy.drawn + xs.length + 1⟩ } .noSqrt)) ∧
      (s.entropy.supply = xs ++ rest → xs.length = s.sqrtIterMax.toNat →
        exec (.yfromx rd rs1) s = .next (failed { s with
          sqrtIterUsed := s.sqrtIterMax
          entropy := ⟨rest, s.entropy.drawn + xs.length⟩ } .sqrtIter))

/-- R107 and R91 e: on a curve with a prime p ≡ 3 (mod 4) or p ≡ 5 (mod 8), YFROMX of the x of a point with y ≠ 0
(x reduced or not) writes one of the two y, without a draw. -/
def Obligations.YfromxFindsTheOrdinate : Prop :=
  ∀ (rd rs1 : BReg) (s : State) (a b p y : Nat), s.curveValid = true → a = s.curveA.toNat → b = s.curveB.toNat →
    p = s.curveP.toNat → p.Prime → p % 4 = 3 ∨ p % 8 = 5 → y ≠ 0 → y < p →
    y ^ 2 % p = (s.num rs1 ^ 3 + a * s.num rs1 + b) % p →
    ∃ z, (z = y ∨ z = p - y) ∧
      exec (.yfromx rd rs1) s = .next (wrote { s with sqrtIterUsed := 0#16 } rd z)

/-- R104 to R107 and R137: while CURVE_VALID = 0, the curve commands complete with NO_CURVE, and YFROMX writes 0 to
SQRT_ITER_USED (R36). -/
def Obligations.CurveCommandsNeedACurve : Prop :=
  ∀ (rd rs1 rs2 : BReg) (s : State), s.curveValid = false →
    ((Instr.padd rd rs1 rs2).wellFormed = true → exec (.padd rd rs1 rs2) s = .next (failed s .noCurve)) ∧
    ((Instr.pdbl rd rs1).wellFormed = true → exec (.pdbl rd rs1) s = .next (failed s .noCurve)) ∧
    ((Instr.pmul rd rs1 rs2).wellFormed = true → exec (.pmul rd rs1 rs2) s = .next (failed s .noCurve)) ∧
    exec (.yfromx rd rs1) s = .next (failed { s with sqrtIterUsed := 0#16 } .noCurve)

/-! ## Codecs -/

/-- R120 and R125: I2B writes the minimal whole-byte big-endian image of B[RS1], max(1, ⌈bitlen/8⌉ ) bytes, at DST_ADDR
and its length to OUT_LEN, or completes with BOUNDS when it does not fit. -/
def Obligations.I2bResult : Prop :=
  ∀ (rs1 : BReg) (s : State), ∃ out : List Byte,
    out.length = max 1 (((s.num rs1).size + 7) / 8) ∧ be out = s.num rs1 ∧
    (s.dstAddr.toNat + out.length ≤ 4096 → exec (.i2b rs1) s = .next (stored s out)) ∧
    (4096 < s.dstAddr.toNat + out.length → exec (.i2b rs1) s = .next (failed s .bounds))

/-- R121 and R126: B2I writes the big-endian value of its input bytes to B[RD] (0 for the empty input, leading zero
bytes accepted), or completes with WIDTH when the value is 2^256 or more. -/
def Obligations.B2iResult : Prop :=
  ∀ (rd : BReg) (s : State) (bs : List Byte), Input s bs →
    (be bs < 2 ^ 256 → exec (.b2i rd) s = .next (wrote s rd (be bs))) ∧
    (2 ^ 256 ≤ be bs → exec (.b2i rd) s = .next (failed s .width))

/-- R121: "BytesToInt(IntToBytes(v)) = v for every v in [0, 2^256)", as a run: B2I of what I2B wrote gives the register
back. -/
def Obligations.B2iRecoversWhatI2bWrote : Prop :=
  ∀ (rs1 rd : BReg) (s t : State), exec (.i2b rs1) s = .next t → t.errcode = .none →
    exec (.b2i rd) { t with srcAddr := s.dstAddr, srcLen := t.outLen } =
      .next (wrote { t with srcAddr := s.dstAddr, srcLen := t.outLen } rd (s.num rs1))

/-- R122, R127 and R134: B85E and A85E write the text of their input, 5·(SRC_LEN div 4 + 1) symbols, in their own
alphabet, or complete with BOUNDS when it does not fit. -/
def Obligations.Base85EncodeResult : Prop :=
  ∀ (s : State) (bs : List Byte), Input s bs →
    (∃ out, Encodes85 symSafe bs out ∧
      (s.dstAddr.toNat + out.length ≤ 4096 → exec .b85e s = .next (stored s out)) ∧
      (4096 < s.dstAddr.toNat + out.length → exec .b85e s = .next (failed s .bounds))) ∧
    (∃ out, Encodes85 ascii85 bs out ∧
      (s.dstAddr.toNat + out.length ≤ 4096 → exec .a85e s = .next (stored s out)) ∧
      (4096 < s.dstAddr.toNat + out.length → exec .a85e s = .next (failed s .bounds)))

/-- R123, R128 and R135: B85D and A85D accept exactly the texts of R123 and write the decoded bytes, or complete with
BOUNDS when those do not fit (R133, R137); every other text completes with ENCODING. -/
def Obligations.Base85DecodeResult : Prop :=
  ∀ (s : State) (text : List Byte), Input s text →
    (∀ out, Decodes85 symSafe text out →
      (s.dstAddr.toNat + out.length ≤ 4096 → exec .b85d s = .next (stored s out)) ∧
      (4096 < s.dstAddr.toNat + out.length → exec .b85d s = .next (failed s .bounds))) ∧
    ((¬ ∃ out, Decodes85 symSafe text out) → exec .b85d s = .next (failed s .encoding)) ∧
    (∀ out, Decodes85 ascii85 text out →
      (s.dstAddr.toNat + out.length ≤ 4096 → exec .a85d s = .next (stored s out)) ∧
      (4096 < s.dstAddr.toNat + out.length → exec .a85d s = .next (failed s .bounds))) ∧
    ((¬ ∃ out, Decodes85 ascii85 text out) → exec .a85d s = .next (failed s .encoding))

/-- R123: "Base85Decode(Base85Encode(s, sym), unsym) = s for every s", as commands: decoding the text of some bytes
writes those bytes, in both variants. -/
def Obligations.Base85DecodeRecoversTheBytes : Prop :=
  ∀ (s : State) (bs text : List Byte), Input s text → s.dstAddr.toNat + bs.length ≤ 4096 →
    (Encodes85 symSafe bs text → exec .b85d s = .next (stored s bs)) ∧
    (Encodes85 ascii85 bs text → exec .a85d s = .next (stored s bs))

/-- R124: whatever the platform's parameter is, SAFE_ALPHABET is 85 pairwise distinct printable bytes in a sequence that
is neither Ascii85's nor RFC 1924's (log 7). -/
def Obligations.SafeAlphabetIsLegal : Prop :=
  safeAlphabet.length = 85 ∧ safeAlphabet.Nodup ∧ (∀ c ∈ safeAlphabet, 0x21 ≤ c.toNat ∧ c.toNat ≤ 0x7E) ∧
  safeAlphabet ≠ ascii85Sequence ∧ safeAlphabet ≠ rfc1924Sequence ∧
  ∀ d, d < 85 → unsymSafe (symSafe d) = some d

/-- R129 and R131: U8E writes the UTF-8 bytes of its code-point array, surrogates as any other 3-byte form; it
completes with ENCODING when SRC_LEN is no multiple of 4 or a code point is above 0x10FFFF. -/
def Obligations.U8eResult : Prop :=
  ∀ (s : State) (bs : List Byte), Input s bs →
    (∀ cps, Text cps → bs = cps.flatMap codePointBytes →
      (s.dstAddr.toNat + (cps.flatMap utf8).length ≤ 4096 → exec .u8e s = .next (stored s (cps.flatMap utf8))) ∧
      (4096 < s.dstAddr.toNat + (cps.flatMap utf8).length → exec .u8e s = .next (failed s .bounds))) ∧
    (bs.length % 4 ≠ 0 → exec .u8e s = .next (failed s .encoding)) ∧
    (∀ q, 4 * q + 3 < bs.length → word bs q > 0x10FFFF → exec .u8e s = .next (failed s .encoding))

/-- R130 and R132: U8D accepts "exactly the encoder's image" and writes the code-point array; every other input
completes with ENCODING. -/
def Obligations.U8dResult : Prop :=
  ∀ (s : State) (bs : List Byte), Input s bs →
    (∀ cps, Text cps → bs = cps.flatMap utf8 →
      (s.dstAddr.toNat + 4 * cps.length ≤ 4096 → exec .u8d s = .next (stored s (cps.flatMap codePointBytes))) ∧
      (4096 < s.dstAddr.toNat + 4 * cps.length → exec .u8d s = .next (failed s .bounds))) ∧
    ((¬ ∃ cps, Text cps ∧ bs = cps.flatMap utf8) → exec .u8d s = .next (failed s .encoding))

/-- R56, R133 and R137: an input range that reaches past BMEM, the sum taken as an integer without wrap, completes with
BOUNDS before anything else is checked. -/
def Obligations.InputPastBmemIsBounds : Prop :=
  ∀ (i : Instr) (s : State), readsBmem i = true → 4096 < s.srcAddr.toNat + s.srcLen.toNat →
    exec i s = .next (failed s .bounds)

/-- R57: the result of a codec command "does not depend on the overlap" of its ranges: with another DST_ADDR the same
bytes are written, there. -/
def Obligations.OutputDoesNotDependOnOverlap : Prop :=
  ∀ (i : Instr) (s t u : State) (d : Word), readsBmem i = true →
    exec i s = .next t → t.errcode = .none → exec i { s with dstAddr := d } = .next u → u.errcode = .none →
    u.outLen = t.outLen ∧ u.regs = t.regs ∧
    (writesBmem i = true → ∀ k, k < t.outLen.toNat →
      u.bmem.readByte (d.toNat + k) = t.bmem.readByte (s.dstAddr.toNat + k))

/-! ## Host accesses -/

/-- R24, R25, R27, R53 and R54: a word read of a control register or a reserved offset returns its value, the reserved
bits and offsets as 0, and changes nothing (but the read data output, log 9), busy or not. -/
def Obligations.ControlRegisterReads : Prop :=
  ∀ (s : State) (off : Offset) (rest : List Event) (v : Word), s.agenda = .read .word off :: rest →
    (off = 0x0000#13 ∧ v = 0x010C1008#32 ∨ off = 0x0004#13 ∧ v = (if s.ie then 2#32 else 0#32) ∨
      off = 0x000C#13 ∧ v = s.cmd ∨ off = 0x0010#13 ∧ v = s.srcAddr ∨ off = 0x0014#13 ∧ v = s.srcLen ∨
      off = 0x0018#13 ∧ v = s.dstAddr ∨ off = 0x001C#13 ∧ v = s.outLen ∨
      off = 0x0020#13 ∧ v = 0#16 ++ s.sqrtIterMax ∨ off = 0x0024#13 ∧ v = 0#16 ++ s.sqrtIterUsed ∨
      off.toNat % 4 = 0 ∧ 0x0028 ≤ off.toNat ∧ off.toNat < 0x0400 ∧ v = 0#32 ∨
      off.toNat % 4 = 0 ∧ 0x0660 ≤ off.toNat ∧ off.toNat < 0x1000 ∧ v = 0#32) →
    step s = .next { s with agenda := rest, readData := v }

/-- R29: a read of STATUS shows its fields, the number of R136 for each of the eleven error codes in [15:8], and 0 in the
reserved bits; a write clears DONE, OVR and BUSERR where it has a
1 and changes nothing else, busy or not. -/
def Obligations.StatusRegisterReadsAndWrites : Prop :=
  ∀ (s : State) (rest : List Event),
    (s.agenda = .read .word 0x0008#13 :: rest → ∃ w : Word,
      step s = .next { s with agenda := rest, readData := w } ∧
      w.getLsbD 0 = (s.phase == .busy) ∧ w.getLsbD 1 = s.done ∧ w.getLsbD 2 = s.ovr ∧ w.getLsbD 3 = s.buserr ∧
      w.getLsbD 4 = s.curveValid ∧ w.extractLsb' 5 3 = 0#3 ∧ w.extractLsb' 16 16 = 0#16 ∧
      (s.errcode = .none → w.extractLsb' 8 8 = 0#8) ∧
      (s.errcode = .illegalOpcode → w.extractLsb' 8 8 = 1#8) ∧
      (s.errcode = .operand → w.extractLsb' 8 8 = 2#8) ∧
      (s.errcode = .modulus → w.extractLsb' 8 8 = 3#8) ∧
      (s.errcode = .noSqrt → w.extractLsb' 8 8 = 4#8) ∧
      (s.errcode = .singular → w.extractLsb' 8 8 = 5#8) ∧
      (s.errcode = .noCurve → w.extractLsb' 8 8 = 6#8) ∧
      (s.errcode = .sqrtIter → w.extractLsb' 8 8 = 7#8) ∧
      (s.errcode = .encoding → w.extractLsb' 8 8 = 8#8) ∧
      (s.errcode = .bounds → w.extractLsb' 8 8 = 9#8) ∧
      (s.errcode = .width → w.extractLsb' 8 8 = 10#8)) ∧
    (∀ v : Word, s.agenda = .write .word 0x0008#13 v :: rest →
      step s = .next { s with
        agenda := rest, done := s.done && !v.getLsbD 1, ovr := s.ovr && !v.getLsbD 2
        buserr := s.buserr && !v.getLsbD 3 })

/-- R37: word j of B[i] is B[i][255−32j : 224−32j]; a read returns that slice and a write in IDLE replaces exactly it. -/
def Obligations.BregWindowReadsAndWrites : Prop :=
  ∀ (s : State) (i : BReg) (j : Fin 8) (off : Offset) (rest : List Event),
    off = BitVec.ofNat 13 (0x0400 + 32 * i.val + 4 * j.val) →
    (s.agenda = .read .word off :: rest →
      step s = .next { s with agenda := rest, readData := (s.reg i).extractLsb' (224 - 32 * j.val) 32 }) ∧
    (∀ v : Word, s.agenda = .write .word off v :: rest → s.phase = .idle →
      ∃ t : State, step s = .next t ∧ t = { s with agenda := rest, regs := t.regs } ∧
        (∀ i', i' ≠ i → t.reg i' = s.reg i') ∧
        ∀ j' : Fin 8, (t.reg i).extractLsb' (224 - 32 * j'.val) 32 =
          if j' = j then v else (s.reg i).extractLsb' (224 - 32 * j'.val) 32)

/-- R38: the CURVE windows show the curve registers in the same word order, and writes to them are ignored without any
flag, busy or not. -/
def Obligations.CurveWindowsAreReadOnly : Prop :=
  ∀ (s : State) (j : Fin 8) (rest : List Event) (off : Offset) (c : Big),
    (off = BitVec.ofNat 13 (0x0600 + 4 * j.val) ∧ c = s.curveP ∨
      off = BitVec.ofNat 13 (0x0620 + 4 * j.val) ∧ c = s.curveA ∨
      off = BitVec.ofNat 13 (0x0640 + 4 * j.val) ∧ c = s.curveB) →
    (s.agenda = .read .word off :: rest →
      step s = .next { s with agenda := rest, readData := c.extractLsb' (224 - 32 * j.val) 32 }) ∧
    (∀ v : Word, s.agenda = .write .word off v :: rest → step s = .next { s with agenda := rest })

/-- R39: the word at offset 0x1000 + 4·m shows four bytes of BMEM, the lowest-addressed one in bits [31:24]; a read of a
word with a byte that was never written since power-on stops (R44, I1), and the stop names the lowest such byte (log 6);
a write in IDLE replaces those four bytes and no other. -/
def Obligations.BmemWindowReadsAndWrites : Prop :=
  ∀ (s : State) (m : Nat) (off : Offset) (rest : List Event), m < 1024 → off = BitVec.ofNat 13 (0x1000 + 4 * m) →
    (∀ b0 b1 b2 b3 : Byte, s.agenda = .read .word off :: rest →
      s.bmem.readByte (4 * m) = some b0 → s.bmem.readByte (4 * m + 1) = some b1 →
      s.bmem.readByte (4 * m + 2) = some b2 → s.bmem.readByte (4 * m + 3) = some b3 →
      step s = .next { s with agenda := rest, readData := b0 ++ b1 ++ b2 ++ b3 }) ∧
    (∀ a, s.agenda = .read .word off :: rest → 4 * m ≤ a → a < 4 * m + 4 → s.bmem.readByte a = none →
      (∀ b, 4 * m ≤ b → b < a → s.bmem.readByte b ≠ none) → step s = .fault (.unwrittenByte a)) ∧
    (∀ v : Word, s.agenda = .write .word off v :: rest → s.phase = .idle →
      ∃ t : State, step s = .next t ∧ t = { s with agenda := rest, bmem := t.bmem } ∧
        t.bmem.readByte (4 * m) = some (v.extractLsb' 24 8) ∧
        t.bmem.readByte (4 * m + 1) = some (v.extractLsb' 16 8) ∧
        t.bmem.readByte (4 * m + 2) = some (v.extractLsb' 8 8) ∧
        t.bmem.readByte (4 * m + 3) = some (v.extractLsb' 0 8) ∧
        ∀ a, a < 4 * m ∨ 4 * m + 4 ≤ a → t.bmem.readByte a = s.bmem.readByte a)

/-- R52: an access that is not a 32-bit aligned word access "changes nothing it addresses, returns 0 if it is a read,
and sets STATUS.BUSERR to 1". That it sets nothing else in BUSY is the model's reading (log 10). -/
def Obligations.IllFormedAccessSetsBusErr : Prop :=
  ∀ (s : State) (size : AccessSize) (off : Offset) (rest : List Event),
    size ≠ .word ∨ off.toNat % 4 ≠ 0 →
    (s.agenda = .read size off :: rest →
      step s = .next { s with agenda := rest, readData := 0#32, buserr := true }) ∧
    (∀ v : Word, s.agenda = .write size off v :: rest →
      step s = .next { s with agenda := rest, buserr := true })

/-- R26: in BUSY, a write to CMD, SRC_ADDR, SRC_LEN, DST_ADDR, SQRT_ITER_MAX, the BREG window or the BMEM window is
dropped and sets OVR; a write to a read-only register or a reserved offset is ignored without setting OVR, busy or
not. -/
def Obligations.BusyWritesAreDropped : Prop :=
  ∀ (s : State) (off : Offset) (v : Word) (rest : List Event),
    s.agenda = .write .word off v :: rest → off.toNat % 4 = 0 →
    (s.phase = .busy →
      (off.toNat = 0x000C ∨ off.toNat = 0x0010 ∨ off.toNat = 0x0014 ∨ off.toNat = 0x0018 ∨ off.toNat = 0x0020 ∨
        (0x0400 ≤ off.toNat ∧ off.toNat < 0x0600) ∨ 0x1000 ≤ off.toNat) →
      step s = .next { s with agenda := rest, ovr := true }) ∧
    ((off.toNat = 0x0000 ∨ off.toNat = 0x001C ∨ off.toNat = 0x0024 ∨
        (0x0028 ≤ off.toNat ∧ off.toNat < 0x0400) ∨ (0x0600 ≤ off.toNat ∧ off.toNat < 0x1000)) →
      step s = .next { s with agenda := rest })

/-- R30 to R33, R35 and R40 a: in IDLE, a write to CMD issues the command "and nothing else", and a write to SRC_ADDR,
SRC_LEN, DST_ADDR or SQRT_ITER_MAX loads that register, SQRT_ITER_MAX with the low 16 bits. -/
def Obligations.IdleWritesTakeEffect : Prop :=
  ∀ (s : State) (v : Word) (rest : List Event), s.phase = .idle →
    (s.agenda = .write .word 0x000C#13 v :: rest →
      step s = .next { s with agenda := rest, cmd := v, done := false, errcode := .none, phase := .busy }) ∧
    (s.agenda = .write .word 0x0010#13 v :: rest → step s = .next { s with agenda := rest, srcAddr := v }) ∧
    (s.agenda = .write .word 0x0014#13 v :: rest → step s = .next { s with agenda := rest, srcLen := v }) ∧
    (s.agenda = .write .word 0x0018#13 v :: rest → step s = .next { s with agenda := rest, dstAddr := v }) ∧
    (s.agenda = .write .word 0x0020#13 v :: rest →
      step s = .next { s with agenda := rest, sqrtIterMax := v.extractLsb' 0 16 })

/-- R28: a write to CTRL, busy or not, with SRST = 0 sets IE to the written bit 1 and changes nothing else; with SRST = 1
it is the soft reset (R161): every control, status and curve register at its reset value, B0..B15 and BMEM as before,
and a running command's completion never happens. -/
def Obligations.CtrlWritesSetIeOrResetTheEngine : Prop :=
  ∀ (s : State) (v : Word) (rest : List Event), s.agenda = .write .word 0x0004#13 v :: rest →
    (v.getLsbD 0 = false → step s = .next { s with agenda := rest, ie := v.getLsbD 1 }) ∧
    (v.getLsbD 0 = true → ∃ t : State,
      t = { s with
        agenda := rest, curveP := 0#256, curveA := 0#256, curveB := 0#256, curveValid := false, ie := false
        phase := .idle, done := false, ovr := false, buserr := false, errcode := .none, cmd := 0#32
        srcAddr := 0#32, srcLen := 0#32, dstAddr := 0#32, outLen := 0#32, sqrtIterMax := 64#16
        sqrtIterUsed := 0#16 } ∧
      step s = .next t ∧
      ∀ rest', rest = .engine :: rest' → step t = .next { t with agenda := rest' })

/-- R44 and R160: the values the spec gives for power-on, in the power-on state and after a power-on event. The values of
B0..B15, which the spec leaves open, are the model's choice (log 5) and not stated here. -/
def Obligations.PowerOnValues : Prop :=
  ∀ s : State, (s = State.reset ∨ ∃ r rest, r.agenda = .powerOn :: rest ∧ step r = .next s) →
    s.curveP = 0#256 ∧ s.curveA = 0#256 ∧ s.curveB = 0#256 ∧ s.curveValid = false ∧ s.ie = false ∧
    s.phase = .idle ∧ s.done = false ∧ s.ovr = false ∧ s.buserr = false ∧ s.errcode = .none ∧ s.cmd = 0#32 ∧
    s.srcAddr = 0#32 ∧ s.srcLen = 0#32 ∧ s.dstAddr = 0#32 ∧ s.outLen = 0#32 ∧ s.sqrtIterMax = 64#16 ∧
    s.sqrtIterUsed = 0#16 ∧ s.irq = false ∧ ∀ a, s.bmem.readByte a = none

/-- R42 and R140: IRQ is DONE AND IE at all times; a completion asserts it exactly when IE = 1; writing 1 to DONE, issuing
a command and a soft reset deassert it; in a state that meets the invariant it is never asserted in BUSY. -/
def Obligations.InterruptFollowsDoneAndEnable : Prop :=
  (∀ s : State, s.irq = (s.done && s.ie)) ∧
  (∀ (i : Instr) (s t : State), exec i s = .next t → t.irq = s.ie) ∧
  (∀ (s t : State) (v : Word) (off : Offset) (rest : List Event), s.agenda = .write .word off v :: rest →
    (off = 0x0008#13 ∧ v.getLsbD 1 = true ∨ off = 0x000C#13 ∧ s.phase = .idle ∨
      off = 0x0004#13 ∧ v.getLsbD 0 = true) →
    step s = .next t → t.irq = false) ∧
  (∀ s : State, s.Inv → s.phase = .busy → s.irq = false)

/-- R40 d: no host access made in BUSY, but the soft reset, changes an operand of the running command: the step changes
at most IE, the sticky flags, DONE and the read data. -/
def Obligations.HostCannotDisturbARunningCommand : Prop :=
  ∀ (s t : State) (size : AccessSize) (off : Offset) (v : Word) (rest : List Event), s.phase = .busy →
    (s.agenda = .read size off :: rest ∨
      s.agenda = .write size off v :: rest ∧ (off = 0x0004#13 → v.getLsbD 0 = false)) →
    step s = .next t →
    t = { s with
      agenda := rest, ie := t.ie, ovr := t.ovr, buserr := t.buserr, done := t.done, readData := t.readData }
end

