-- ==== Sys2Proof/Laws/Memory.lean ====
section
/-! SUPPORT. The laws of BMEM: every write keeps the canonical form, a read after a write gives the value written and
a write leaves every other byte alone (spec/10_state.md R23, spec/20_memory.md R56). -/

namespace Sys2Proof.Machine.Memory

theorem readByte_writeByte (m : Memory) (a b : Nat) (v : Byte) :
    (m.writeByte a v).readByte b = if a = b then some v else m.readByte b := by
  induction m with
  | nil => simp [writeByte, readByte]
  | cons c m ih =>
    obtain ⟨k, w⟩ := c
    simp only [writeByte]
    split
    · simp [readByte]
    · split
      · subst_vars
        by_cases h : k = b <;> simp [readByte, h]
      · simp only [readByte, ih]
        by_cases hk : k = b
        · simp [hk]; omega
        · simp [hk]

/-- The bytes of a write read back, and every other byte is as before. -/
theorem readByte_writeBytes (m : Memory) (a : Nat) (bs : List Byte) (b : Nat) :
    (m.writeBytes a bs).readByte b = if a ≤ b ∧ b < a + bs.length then bs[b - a]? else m.readByte b := by
  induction bs generalizing m a with
  | nil => rw [if_neg (by simp)]; rfl
  | cons x xs ih =>
    simp only [writeBytes, ih, readByte_writeByte, List.length_cons]
    by_cases h : a = b
    · subst h; simp
    · by_cases h1 : a + 1 ≤ b ∧ b < a + 1 + xs.length
      · have : b - a = (b - (a + 1)) + 1 := by omega
        rw [if_pos h1, if_pos (by omega), this]; simp
      · rw [if_neg h1, if_neg h, if_neg (by omega)]

theorem readByte_writeBytes_outside (m : Memory) (a : Nat) (bs : List Byte) (b : Nat)
    (h : b < a ∨ a + bs.length ≤ b) : (m.writeBytes a bs).readByte b = m.readByte b := by
  rw [readByte_writeBytes, if_neg (by omega)]

theorem mem_writeByte (m : Memory) (a : Nat) (v : Byte) (c : Host.Cell) (h : c ∈ m.writeByte a v) :
    c = (a, v) ∨ c ∈ m := by
  induction m with
  | nil => simpa [writeByte] using h
  | cons d m ih =>
    obtain ⟨k, w⟩ := d
    simp only [writeByte] at h
    split at h
    · simpa using h
    · split at h
      · simp only [List.mem_cons] at h ⊢
        tauto
      · simp only [List.mem_cons] at h ⊢
        rcases h with h | h
        · exact .inr (.inl h)
        · rcases ih h with h | h
          · exact .inl h
          · exact .inr (.inr h)

theorem writeByte_rising (m : Memory) (a : Nat) (v : Byte) (h : m.Pairwise fun c d => c.1 < d.1) :
    (m.writeByte a v).Pairwise fun c d => c.1 < d.1 := by
  induction m with
  | nil => simp [writeByte]
  | cons d m ih =>
    obtain ⟨k, w⟩ := d
    obtain ⟨hk, hm⟩ := List.pairwise_cons.mp h
    simp only [writeByte]
    split
    · rename_i hlt
      refine List.pairwise_cons.mpr ⟨?_, h⟩
      intro c hc
      rcases List.mem_cons.mp hc with rfl | hc
      · exact hlt
      · exact lt_trans hlt (hk c hc)
    · split
      · subst_vars
        exact List.pairwise_cons.mpr ⟨hk, hm⟩
      · refine List.pairwise_cons.mpr ⟨?_, ih hm⟩
        intro c hc
        rcases mem_writeByte m a v c hc with rfl | hc
        · show k < a; omega
        · exact hk c hc

theorem writeByte_wf (m : Memory) (a : Nat) (v : Byte) (h : m.wf) (ha : a < Config.bmemSize) :
    (m.writeByte a v).wf := by
  refine ⟨writeByte_rising m a v h.1, fun c hc => ?_⟩
  rcases mem_writeByte m a v c hc with rfl | hc
  · exact ha
  · exact h.2 c hc

/-- Every write inside BMEM keeps the canonical form. -/
theorem writeBytes_wf (m : Memory) (a : Nat) (bs : List Byte) (h : m.wf)
    (ha : a + bs.length ≤ Config.bmemSize) : (m.writeBytes a bs).wf := by
  induction bs generalizing m a with
  | nil => exact h
  | cons x xs ih =>
    simp only [List.length_cons] at ha
    exact ih _ _ (writeByte_wf m a x h (by omega)) (by omega)

theorem reset_wf : State.reset.bmem.wf := by decide

/-- A successful read of a range gives its bytes, one for each address. -/
theorem readBytes_ok (m : Memory) (a n : Nat) (bs : List Byte) :
    m.readBytes a n = .ok bs ↔ bs.length = n ∧ ∀ i, i < n → m.readByte (a + i) = bs[i]? := by
  induction n generalizing a bs with
  | zero =>
    simp only [readBytes, Except.ok.injEq]
    constructor
    · rintro rfl; simp
    · rintro ⟨h, -⟩; exact (List.length_eq_zero_iff.mp h).symm
  | succ n ih =>
    simp only [readBytes]
    constructor
    · intro h
      split at h
      · cases h
      · rename_i b hb
        split at h
        · cases h
        · rename_i cs hcs
          cases h
          obtain ⟨hl, hr⟩ := (ih (a + 1) cs).mp hcs
          refine ⟨by simp [hl], fun i hi => ?_⟩
          cases i with
          | zero => simpa using hb
          | succ i =>
            have := hr i (by omega)
            rw [show a + (i + 1) = a + 1 + i by omega]
            simpa using this
    · rintro ⟨hl, hr⟩
      obtain ⟨b, cs, rfl⟩ : ∃ b cs, bs = b :: cs := by
        cases bs with
        | nil => simp at hl
        | cons b cs => exact ⟨b, cs, rfl⟩
      have h0 : m.readByte a = some b := by simpa using hr 0 (by omega)
      have h1 : m.readBytes (a + 1) n = .ok cs := by
        refine (ih (a + 1) cs).mpr ⟨by simpa using hl, fun i hi => ?_⟩
        have := hr (i + 1) (by omega)
        rw [show a + (i + 1) = a + 1 + i by omega] at this
        simpa using this
      simp [h0, h1]

/-- Exactly when a read of a range fails, and where: at its lowest address that was never written. -/
theorem readBytes_error_iff (m : Memory) (a n e : Nat) :
    m.readBytes a n = .error e ↔
      a ≤ e ∧ e < a + n ∧ m.readByte e = none ∧ ∀ b, a ≤ b → b < e → m.readByte b ≠ none := by
  induction n generalizing a with
  | zero =>
    exact iff_of_false (by simp [readBytes]) fun ⟨h1, h2, _⟩ => by omega
  | succ n ih =>
    rw [readBytes]
    cases ha : m.readByte a with
    | none =>
      simp only [Except.error.injEq]
      constructor
      · rintro rfl
        exact ⟨le_refl _, by omega, ha, fun b h1 h2 => by omega⟩
      · rintro ⟨h1, -, -, h4⟩
        by_contra hne
        exact h4 a (le_refl _) (by omega) ha
    | some v =>
      have step : m.readBytes (a + 1) n = .error e ↔
          a ≤ e ∧ e < a + (n + 1) ∧ m.readByte e = none ∧ ∀ b, a ≤ b → b < e → m.readByte b ≠ none := by
        rw [ih]
        constructor
        · rintro ⟨h1, h2, h3, h4⟩
          refine ⟨by omega, by omega, h3, fun b hb he => ?_⟩
          by_cases hab : b = a
          · rw [hab, ha]; simp
          · exact h4 b (by omega) he
        · rintro ⟨h1, h2, h3, h4⟩
          have hae : a ≠ e := fun h => by rw [← h, ha] at h3; cases h3
          exact ⟨by omega, by omega, h3, fun b hb he => h4 b (by omega) he⟩
      rw [← step]
      cases m.readBytes (a + 1) n <;> simp

/-- A failed read of a range names an address of the range that was never written. -/
theorem readBytes_error (m : Memory) (a n e : Nat) (h : m.readBytes a n = .error e) :
    a ≤ e ∧ e < a + n ∧ m.readByte e = none := by
  obtain ⟨h1, h2, h3, -⟩ := (readBytes_error_iff m a n e).mp h
  exact ⟨h1, h2, h3⟩

end Sys2Proof.Machine.Memory
end

