-- ==== Sys2Proof/Laws/State.lean ====
section
/-! SUPPORT. What each named update of the state does to each field: one lemma per field and update, all by rfl. -/

namespace Sys2Proof.Machine.State

variable (s : State)

/-! ### `B[i] <- v` (R11) -/

@[simp] theorem setReg_regs (i : BReg) (v : Big) : (s.setReg i v).regs = s.regs.set i.val v i.isLt := rfl
@[simp] theorem setReg_curveP (i : BReg) (v : Big) : (s.setReg i v).curveP = s.curveP := rfl
@[simp] theorem setReg_curveA (i : BReg) (v : Big) : (s.setReg i v).curveA = s.curveA := rfl
@[simp] theorem setReg_curveB (i : BReg) (v : Big) : (s.setReg i v).curveB = s.curveB := rfl
@[simp] theorem setReg_curveValid (i : BReg) (v : Big) : (s.setReg i v).curveValid = s.curveValid := rfl
@[simp] theorem setReg_bmem (i : BReg) (v : Big) : (s.setReg i v).bmem = s.bmem := rfl
@[simp] theorem setReg_ie (i : BReg) (v : Big) : (s.setReg i v).ie = s.ie := rfl
@[simp] theorem setReg_phase (i : BReg) (v : Big) : (s.setReg i v).phase = s.phase := rfl
@[simp] theorem setReg_done (i : BReg) (v : Big) : (s.setReg i v).done = s.done := rfl
@[simp] theorem setReg_ovr (i : BReg) (v : Big) : (s.setReg i v).ovr = s.ovr := rfl
@[simp] theorem setReg_buserr (i : BReg) (v : Big) : (s.setReg i v).buserr = s.buserr := rfl
@[simp] theorem setReg_errcode (i : BReg) (v : Big) : (s.setReg i v).errcode = s.errcode := rfl
@[simp] theorem setReg_cmd (i : BReg) (v : Big) : (s.setReg i v).cmd = s.cmd := rfl
@[simp] theorem setReg_srcAddr (i : BReg) (v : Big) : (s.setReg i v).srcAddr = s.srcAddr := rfl
@[simp] theorem setReg_srcLen (i : BReg) (v : Big) : (s.setReg i v).srcLen = s.srcLen := rfl
@[simp] theorem setReg_dstAddr (i : BReg) (v : Big) : (s.setReg i v).dstAddr = s.dstAddr := rfl
@[simp] theorem setReg_outLen (i : BReg) (v : Big) : (s.setReg i v).outLen = s.outLen := rfl
@[simp] theorem setReg_sqrtIterMax (i : BReg) (v : Big) : (s.setReg i v).sqrtIterMax = s.sqrtIterMax := rfl
@[simp] theorem setReg_sqrtIterUsed (i : BReg) (v : Big) : (s.setReg i v).sqrtIterUsed = s.sqrtIterUsed := rfl
@[simp] theorem setReg_readData (i : BReg) (v : Big) : (s.setReg i v).readData = s.readData := rfl
@[simp] theorem setReg_agenda (i : BReg) (v : Big) : (s.setReg i v).agenda = s.agenda := rfl
@[simp] theorem setReg_entropy (i : BReg) (v : Big) : (s.setReg i v).entropy = s.entropy := rfl

/-! ### `B[i] <- n` (R11) -/

@[simp] theorem setNum_regs (i : BReg) (n : Nat) : (s.setNum i n).regs = s.regs.set i.val (BitVec.ofNat 256 n) i.isLt := rfl
@[simp] theorem setNum_curveP (i : BReg) (n : Nat) : (s.setNum i n).curveP = s.curveP := rfl
@[simp] theorem setNum_curveA (i : BReg) (n : Nat) : (s.setNum i n).curveA = s.curveA := rfl
@[simp] theorem setNum_curveB (i : BReg) (n : Nat) : (s.setNum i n).curveB = s.curveB := rfl
@[simp] theorem setNum_curveValid (i : BReg) (n : Nat) : (s.setNum i n).curveValid = s.curveValid := rfl
@[simp] theorem setNum_bmem (i : BReg) (n : Nat) : (s.setNum i n).bmem = s.bmem := rfl
@[simp] theorem setNum_ie (i : BReg) (n : Nat) : (s.setNum i n).ie = s.ie := rfl
@[simp] theorem setNum_phase (i : BReg) (n : Nat) : (s.setNum i n).phase = s.phase := rfl
@[simp] theorem setNum_done (i : BReg) (n : Nat) : (s.setNum i n).done = s.done := rfl
@[simp] theorem setNum_ovr (i : BReg) (n : Nat) : (s.setNum i n).ovr = s.ovr := rfl
@[simp] theorem setNum_buserr (i : BReg) (n : Nat) : (s.setNum i n).buserr = s.buserr := rfl
@[simp] theorem setNum_errcode (i : BReg) (n : Nat) : (s.setNum i n).errcode = s.errcode := rfl
@[simp] theorem setNum_cmd (i : BReg) (n : Nat) : (s.setNum i n).cmd = s.cmd := rfl
@[simp] theorem setNum_srcAddr (i : BReg) (n : Nat) : (s.setNum i n).srcAddr = s.srcAddr := rfl
@[simp] theorem setNum_srcLen (i : BReg) (n : Nat) : (s.setNum i n).srcLen = s.srcLen := rfl
@[simp] theorem setNum_dstAddr (i : BReg) (n : Nat) : (s.setNum i n).dstAddr = s.dstAddr := rfl
@[simp] theorem setNum_outLen (i : BReg) (n : Nat) : (s.setNum i n).outLen = s.outLen := rfl
@[simp] theorem setNum_sqrtIterMax (i : BReg) (n : Nat) : (s.setNum i n).sqrtIterMax = s.sqrtIterMax := rfl
@[simp] theorem setNum_sqrtIterUsed (i : BReg) (n : Nat) : (s.setNum i n).sqrtIterUsed = s.sqrtIterUsed := rfl
@[simp] theorem setNum_readData (i : BReg) (n : Nat) : (s.setNum i n).readData = s.readData := rfl
@[simp] theorem setNum_agenda (i : BReg) (n : Nat) : (s.setNum i n).agenda = s.agenda := rfl
@[simp] theorem setNum_entropy (i : BReg) (n : Nat) : (s.setNum i n).entropy = s.entropy := rfl

/-! ### a point write (R19) -/

@[simp] theorem setPoint_regs (j : BReg) (P : Point) : (s.setPoint j P).regs = (s.regs.set j.val (BitVec.ofNat 256 P.1) j.isLt).set (oddOf j).val (BitVec.ofNat 256 P.2) (oddOf j).isLt := rfl
@[simp] theorem setPoint_curveP (j : BReg) (P : Point) : (s.setPoint j P).curveP = s.curveP := rfl
@[simp] theorem setPoint_curveA (j : BReg) (P : Point) : (s.setPoint j P).curveA = s.curveA := rfl
@[simp] theorem setPoint_curveB (j : BReg) (P : Point) : (s.setPoint j P).curveB = s.curveB := rfl
@[simp] theorem setPoint_curveValid (j : BReg) (P : Point) : (s.setPoint j P).curveValid = s.curveValid := rfl
@[simp] theorem setPoint_bmem (j : BReg) (P : Point) : (s.setPoint j P).bmem = s.bmem := rfl
@[simp] theorem setPoint_ie (j : BReg) (P : Point) : (s.setPoint j P).ie = s.ie := rfl
@[simp] theorem setPoint_phase (j : BReg) (P : Point) : (s.setPoint j P).phase = s.phase := rfl
@[simp] theorem setPoint_done (j : BReg) (P : Point) : (s.setPoint j P).done = s.done := rfl
@[simp] theorem setPoint_ovr (j : BReg) (P : Point) : (s.setPoint j P).ovr = s.ovr := rfl
@[simp] theorem setPoint_buserr (j : BReg) (P : Point) : (s.setPoint j P).buserr = s.buserr := rfl
@[simp] theorem setPoint_errcode (j : BReg) (P : Point) : (s.setPoint j P).errcode = s.errcode := rfl
@[simp] theorem setPoint_cmd (j : BReg) (P : Point) : (s.setPoint j P).cmd = s.cmd := rfl
@[simp] theorem setPoint_srcAddr (j : BReg) (P : Point) : (s.setPoint j P).srcAddr = s.srcAddr := rfl
@[simp] theorem setPoint_srcLen (j : BReg) (P : Point) : (s.setPoint j P).srcLen = s.srcLen := rfl
@[simp] theorem setPoint_dstAddr (j : BReg) (P : Point) : (s.setPoint j P).dstAddr = s.dstAddr := rfl
@[simp] theorem setPoint_outLen (j : BReg) (P : Point) : (s.setPoint j P).outLen = s.outLen := rfl
@[simp] theorem setPoint_sqrtIterMax (j : BReg) (P : Point) : (s.setPoint j P).sqrtIterMax = s.sqrtIterMax := rfl
@[simp] theorem setPoint_sqrtIterUsed (j : BReg) (P : Point) : (s.setPoint j P).sqrtIterUsed = s.sqrtIterUsed := rfl
@[simp] theorem setPoint_readData (j : BReg) (P : Point) : (s.setPoint j P).readData = s.readData := rfl
@[simp] theorem setPoint_agenda (j : BReg) (P : Point) : (s.setPoint j P).agenda = s.agenda := rfl
@[simp] theorem setPoint_entropy (j : BReg) (P : Point) : (s.setPoint j P).entropy = s.entropy := rfl

/-! ### CURVESET's write (R103) -/

@[simp] theorem setCurve_regs (p a b : Big) : (s.setCurve p a b).regs = s.regs := rfl
@[simp] theorem setCurve_curveP (p a b : Big) : (s.setCurve p a b).curveP = p := rfl
@[simp] theorem setCurve_curveA (p a b : Big) : (s.setCurve p a b).curveA = a := rfl
@[simp] theorem setCurve_curveB (p a b : Big) : (s.setCurve p a b).curveB = b := rfl
@[simp] theorem setCurve_curveValid (p a b : Big) : (s.setCurve p a b).curveValid = true := rfl
@[simp] theorem setCurve_bmem (p a b : Big) : (s.setCurve p a b).bmem = s.bmem := rfl
@[simp] theorem setCurve_ie (p a b : Big) : (s.setCurve p a b).ie = s.ie := rfl
@[simp] theorem setCurve_phase (p a b : Big) : (s.setCurve p a b).phase = s.phase := rfl
@[simp] theorem setCurve_done (p a b : Big) : (s.setCurve p a b).done = s.done := rfl
@[simp] theorem setCurve_ovr (p a b : Big) : (s.setCurve p a b).ovr = s.ovr := rfl
@[simp] theorem setCurve_buserr (p a b : Big) : (s.setCurve p a b).buserr = s.buserr := rfl
@[simp] theorem setCurve_errcode (p a b : Big) : (s.setCurve p a b).errcode = s.errcode := rfl
@[simp] theorem setCurve_cmd (p a b : Big) : (s.setCurve p a b).cmd = s.cmd := rfl
@[simp] theorem setCurve_srcAddr (p a b : Big) : (s.setCurve p a b).srcAddr = s.srcAddr := rfl
@[simp] theorem setCurve_srcLen (p a b : Big) : (s.setCurve p a b).srcLen = s.srcLen := rfl
@[simp] theorem setCurve_dstAddr (p a b : Big) : (s.setCurve p a b).dstAddr = s.dstAddr := rfl
@[simp] theorem setCurve_outLen (p a b : Big) : (s.setCurve p a b).outLen = s.outLen := rfl
@[simp] theorem setCurve_sqrtIterMax (p a b : Big) : (s.setCurve p a b).sqrtIterMax = s.sqrtIterMax := rfl
@[simp] theorem setCurve_sqrtIterUsed (p a b : Big) : (s.setCurve p a b).sqrtIterUsed = s.sqrtIterUsed := rfl
@[simp] theorem setCurve_readData (p a b : Big) : (s.setCurve p a b).readData = s.readData := rfl
@[simp] theorem setCurve_agenda (p a b : Big) : (s.setCurve p a b).agenda = s.agenda := rfl
@[simp] theorem setCurve_entropy (p a b : Big) : (s.setCurve p a b).entropy = s.entropy := rfl

/-! ### a codec's write (R34, R56) -/

@[simp] theorem storeOutput_regs (out : List Byte) : (s.storeOutput out).regs = s.regs := rfl
@[simp] theorem storeOutput_curveP (out : List Byte) : (s.storeOutput out).curveP = s.curveP := rfl
@[simp] theorem storeOutput_curveA (out : List Byte) : (s.storeOutput out).curveA = s.curveA := rfl
@[simp] theorem storeOutput_curveB (out : List Byte) : (s.storeOutput out).curveB = s.curveB := rfl
@[simp] theorem storeOutput_curveValid (out : List Byte) : (s.storeOutput out).curveValid = s.curveValid := rfl
@[simp] theorem storeOutput_bmem (out : List Byte) : (s.storeOutput out).bmem = s.bmem.writeBytes s.dstAddr.toNat out := rfl
@[simp] theorem storeOutput_ie (out : List Byte) : (s.storeOutput out).ie = s.ie := rfl
@[simp] theorem storeOutput_phase (out : List Byte) : (s.storeOutput out).phase = s.phase := rfl
@[simp] theorem storeOutput_done (out : List Byte) : (s.storeOutput out).done = s.done := rfl
@[simp] theorem storeOutput_ovr (out : List Byte) : (s.storeOutput out).ovr = s.ovr := rfl
@[simp] theorem storeOutput_buserr (out : List Byte) : (s.storeOutput out).buserr = s.buserr := rfl
@[simp] theorem storeOutput_errcode (out : List Byte) : (s.storeOutput out).errcode = s.errcode := rfl
@[simp] theorem storeOutput_cmd (out : List Byte) : (s.storeOutput out).cmd = s.cmd := rfl
@[simp] theorem storeOutput_srcAddr (out : List Byte) : (s.storeOutput out).srcAddr = s.srcAddr := rfl
@[simp] theorem storeOutput_srcLen (out : List Byte) : (s.storeOutput out).srcLen = s.srcLen := rfl
@[simp] theorem storeOutput_dstAddr (out : List Byte) : (s.storeOutput out).dstAddr = s.dstAddr := rfl
@[simp] theorem storeOutput_outLen (out : List Byte) : (s.storeOutput out).outLen = BitVec.ofNat 32 out.length := rfl
@[simp] theorem storeOutput_sqrtIterMax (out : List Byte) : (s.storeOutput out).sqrtIterMax = s.sqrtIterMax := rfl
@[simp] theorem storeOutput_sqrtIterUsed (out : List Byte) : (s.storeOutput out).sqrtIterUsed = s.sqrtIterUsed := rfl
@[simp] theorem storeOutput_readData (out : List Byte) : (s.storeOutput out).readData = s.readData := rfl
@[simp] theorem storeOutput_agenda (out : List Byte) : (s.storeOutput out).agenda = s.agenda := rfl
@[simp] theorem storeOutput_entropy (out : List Byte) : (s.storeOutput out).entropy = s.entropy := rfl

/-! ### SQRT_ITER_USED (R36) -/

@[simp] theorem setSqrtUsed_regs (t : Nat) (ent : Entropy) : (s.setSqrtUsed t ent).regs = s.regs := rfl
@[simp] theorem setSqrtUsed_curveP (t : Nat) (ent : Entropy) : (s.setSqrtUsed t ent).curveP = s.curveP := rfl
@[simp] theorem setSqrtUsed_curveA (t : Nat) (ent : Entropy) : (s.setSqrtUsed t ent).curveA = s.curveA := rfl
@[simp] theorem setSqrtUsed_curveB (t : Nat) (ent : Entropy) : (s.setSqrtUsed t ent).curveB = s.curveB := rfl
@[simp] theorem setSqrtUsed_curveValid (t : Nat) (ent : Entropy) : (s.setSqrtUsed t ent).curveValid = s.curveValid := rfl
@[simp] theorem setSqrtUsed_bmem (t : Nat) (ent : Entropy) : (s.setSqrtUsed t ent).bmem = s.bmem := rfl
@[simp] theorem setSqrtUsed_ie (t : Nat) (ent : Entropy) : (s.setSqrtUsed t ent).ie = s.ie := rfl
@[simp] theorem setSqrtUsed_phase (t : Nat) (ent : Entropy) : (s.setSqrtUsed t ent).phase = s.phase := rfl
@[simp] theorem setSqrtUsed_done (t : Nat) (ent : Entropy) : (s.setSqrtUsed t ent).done = s.done := rfl
@[simp] theorem setSqrtUsed_ovr (t : Nat) (ent : Entropy) : (s.setSqrtUsed t ent).ovr = s.ovr := rfl
@[simp] theorem setSqrtUsed_buserr (t : Nat) (ent : Entropy) : (s.setSqrtUsed t ent).buserr = s.buserr := rfl
@[simp] theorem setSqrtUsed_errcode (t : Nat) (ent : Entropy) : (s.setSqrtUsed t ent).errcode = s.errcode := rfl
@[simp] theorem setSqrtUsed_cmd (t : Nat) (ent : Entropy) : (s.setSqrtUsed t ent).cmd = s.cmd := rfl
@[simp] theorem setSqrtUsed_srcAddr (t : Nat) (ent : Entropy) : (s.setSqrtUsed t ent).srcAddr = s.srcAddr := rfl
@[simp] theorem setSqrtUsed_srcLen (t : Nat) (ent : Entropy) : (s.setSqrtUsed t ent).srcLen = s.srcLen := rfl
@[simp] theorem setSqrtUsed_dstAddr (t : Nat) (ent : Entropy) : (s.setSqrtUsed t ent).dstAddr = s.dstAddr := rfl
@[simp] theorem setSqrtUsed_outLen (t : Nat) (ent : Entropy) : (s.setSqrtUsed t ent).outLen = s.outLen := rfl
@[simp] theorem setSqrtUsed_sqrtIterMax (t : Nat) (ent : Entropy) : (s.setSqrtUsed t ent).sqrtIterMax = s.sqrtIterMax := rfl
@[simp] theorem setSqrtUsed_sqrtIterUsed (t : Nat) (ent : Entropy) : (s.setSqrtUsed t ent).sqrtIterUsed = BitVec.ofNat 16 t := rfl
@[simp] theorem setSqrtUsed_readData (t : Nat) (ent : Entropy) : (s.setSqrtUsed t ent).readData = s.readData := rfl
@[simp] theorem setSqrtUsed_agenda (t : Nat) (ent : Entropy) : (s.setSqrtUsed t ent).agenda = s.agenda := rfl
@[simp] theorem setSqrtUsed_entropy (t : Nat) (ent : Entropy) : (s.setSqrtUsed t ent).entropy = ent := rfl

/-! ### issue (R40 a) -/

@[simp] theorem issued_regs (v : Word) : (s.issued v).regs = s.regs := rfl
@[simp] theorem issued_curveP (v : Word) : (s.issued v).curveP = s.curveP := rfl
@[simp] theorem issued_curveA (v : Word) : (s.issued v).curveA = s.curveA := rfl
@[simp] theorem issued_curveB (v : Word) : (s.issued v).curveB = s.curveB := rfl
@[simp] theorem issued_curveValid (v : Word) : (s.issued v).curveValid = s.curveValid := rfl
@[simp] theorem issued_bmem (v : Word) : (s.issued v).bmem = s.bmem := rfl
@[simp] theorem issued_ie (v : Word) : (s.issued v).ie = s.ie := rfl
@[simp] theorem issued_phase (v : Word) : (s.issued v).phase = .busy := rfl
@[simp] theorem issued_done (v : Word) : (s.issued v).done = false := rfl
@[simp] theorem issued_ovr (v : Word) : (s.issued v).ovr = s.ovr := rfl
@[simp] theorem issued_buserr (v : Word) : (s.issued v).buserr = s.buserr := rfl
@[simp] theorem issued_errcode (v : Word) : (s.issued v).errcode = .none := rfl
@[simp] theorem issued_cmd (v : Word) : (s.issued v).cmd = v := rfl
@[simp] theorem issued_srcAddr (v : Word) : (s.issued v).srcAddr = s.srcAddr := rfl
@[simp] theorem issued_srcLen (v : Word) : (s.issued v).srcLen = s.srcLen := rfl
@[simp] theorem issued_dstAddr (v : Word) : (s.issued v).dstAddr = s.dstAddr := rfl
@[simp] theorem issued_outLen (v : Word) : (s.issued v).outLen = s.outLen := rfl
@[simp] theorem issued_sqrtIterMax (v : Word) : (s.issued v).sqrtIterMax = s.sqrtIterMax := rfl
@[simp] theorem issued_sqrtIterUsed (v : Word) : (s.issued v).sqrtIterUsed = s.sqrtIterUsed := rfl
@[simp] theorem issued_readData (v : Word) : (s.issued v).readData = s.readData := rfl
@[simp] theorem issued_agenda (v : Word) : (s.issued v).agenda = s.agenda := rfl
@[simp] theorem issued_entropy (v : Word) : (s.issued v).entropy = s.entropy := rfl

/-! ### completion (R40 b) -/

@[simp] theorem completed_regs (e : ErrCode) : (s.completed e).regs = s.regs := rfl
@[simp] theorem completed_curveP (e : ErrCode) : (s.completed e).curveP = s.curveP := rfl
@[simp] theorem completed_curveA (e : ErrCode) : (s.completed e).curveA = s.curveA := rfl
@[simp] theorem completed_curveB (e : ErrCode) : (s.completed e).curveB = s.curveB := rfl
@[simp] theorem completed_curveValid (e : ErrCode) : (s.completed e).curveValid = s.curveValid := rfl
@[simp] theorem completed_bmem (e : ErrCode) : (s.completed e).bmem = s.bmem := rfl
@[simp] theorem completed_ie (e : ErrCode) : (s.completed e).ie = s.ie := rfl
@[simp] theorem completed_phase (e : ErrCode) : (s.completed e).phase = .idle := rfl
@[simp] theorem completed_done (e : ErrCode) : (s.completed e).done = true := rfl
@[simp] theorem completed_ovr (e : ErrCode) : (s.completed e).ovr = s.ovr := rfl
@[simp] theorem completed_buserr (e : ErrCode) : (s.completed e).buserr = s.buserr := rfl
@[simp] theorem completed_errcode (e : ErrCode) : (s.completed e).errcode = e := rfl
@[simp] theorem completed_cmd (e : ErrCode) : (s.completed e).cmd = s.cmd := rfl
@[simp] theorem completed_srcAddr (e : ErrCode) : (s.completed e).srcAddr = s.srcAddr := rfl
@[simp] theorem completed_srcLen (e : ErrCode) : (s.completed e).srcLen = s.srcLen := rfl
@[simp] theorem completed_dstAddr (e : ErrCode) : (s.completed e).dstAddr = s.dstAddr := rfl
@[simp] theorem completed_outLen (e : ErrCode) : (s.completed e).outLen = s.outLen := rfl
@[simp] theorem completed_sqrtIterMax (e : ErrCode) : (s.completed e).sqrtIterMax = s.sqrtIterMax := rfl
@[simp] theorem completed_sqrtIterUsed (e : ErrCode) : (s.completed e).sqrtIterUsed = s.sqrtIterUsed := rfl
@[simp] theorem completed_readData (e : ErrCode) : (s.completed e).readData = s.readData := rfl
@[simp] theorem completed_agenda (e : ErrCode) : (s.completed e).agenda = s.agenda := rfl
@[simp] theorem completed_entropy (e : ErrCode) : (s.completed e).entropy = s.entropy := rfl

/-! ### soft reset (R161) -/

@[simp] theorem softReset_regs : (s.softReset).regs = s.regs := rfl
@[simp] theorem softReset_curveP : (s.softReset).curveP = 0#256 := rfl
@[simp] theorem softReset_curveA : (s.softReset).curveA = 0#256 := rfl
@[simp] theorem softReset_curveB : (s.softReset).curveB = 0#256 := rfl
@[simp] theorem softReset_curveValid : (s.softReset).curveValid = false := rfl
@[simp] theorem softReset_bmem : (s.softReset).bmem = s.bmem := rfl
@[simp] theorem softReset_ie : (s.softReset).ie = false := rfl
@[simp] theorem softReset_phase : (s.softReset).phase = .idle := rfl
@[simp] theorem softReset_done : (s.softReset).done = false := rfl
@[simp] theorem softReset_ovr : (s.softReset).ovr = false := rfl
@[simp] theorem softReset_buserr : (s.softReset).buserr = false := rfl
@[simp] theorem softReset_errcode : (s.softReset).errcode = .none := rfl
@[simp] theorem softReset_cmd : (s.softReset).cmd = 0#32 := rfl
@[simp] theorem softReset_srcAddr : (s.softReset).srcAddr = 0#32 := rfl
@[simp] theorem softReset_srcLen : (s.softReset).srcLen = 0#32 := rfl
@[simp] theorem softReset_dstAddr : (s.softReset).dstAddr = 0#32 := rfl
@[simp] theorem softReset_outLen : (s.softReset).outLen = 0#32 := rfl
@[simp] theorem softReset_sqrtIterMax : (s.softReset).sqrtIterMax = Config.sqrtIterMaxReset := rfl
@[simp] theorem softReset_sqrtIterUsed : (s.softReset).sqrtIterUsed = 0#16 := rfl
@[simp] theorem softReset_readData : (s.softReset).readData = s.readData := rfl
@[simp] theorem softReset_agenda : (s.softReset).agenda = s.agenda := rfl
@[simp] theorem softReset_entropy : (s.softReset).entropy = s.entropy := rfl

/-! ### power-on (R160) -/

@[simp] theorem poweredOn_regs : (s.poweredOn).regs = State.reset.regs := rfl
@[simp] theorem poweredOn_curveP : (s.poweredOn).curveP = State.reset.curveP := rfl
@[simp] theorem poweredOn_curveA : (s.poweredOn).curveA = State.reset.curveA := rfl
@[simp] theorem poweredOn_curveB : (s.poweredOn).curveB = State.reset.curveB := rfl
@[simp] theorem poweredOn_curveValid : (s.poweredOn).curveValid = State.reset.curveValid := rfl
@[simp] theorem poweredOn_bmem : (s.poweredOn).bmem = State.reset.bmem := rfl
@[simp] theorem poweredOn_ie : (s.poweredOn).ie = State.reset.ie := rfl
@[simp] theorem poweredOn_phase : (s.poweredOn).phase = State.reset.phase := rfl
@[simp] theorem poweredOn_done : (s.poweredOn).done = State.reset.done := rfl
@[simp] theorem poweredOn_ovr : (s.poweredOn).ovr = State.reset.ovr := rfl
@[simp] theorem poweredOn_buserr : (s.poweredOn).buserr = State.reset.buserr := rfl
@[simp] theorem poweredOn_errcode : (s.poweredOn).errcode = State.reset.errcode := rfl
@[simp] theorem poweredOn_cmd : (s.poweredOn).cmd = State.reset.cmd := rfl
@[simp] theorem poweredOn_srcAddr : (s.poweredOn).srcAddr = State.reset.srcAddr := rfl
@[simp] theorem poweredOn_srcLen : (s.poweredOn).srcLen = State.reset.srcLen := rfl
@[simp] theorem poweredOn_dstAddr : (s.poweredOn).dstAddr = State.reset.dstAddr := rfl
@[simp] theorem poweredOn_outLen : (s.poweredOn).outLen = State.reset.outLen := rfl
@[simp] theorem poweredOn_sqrtIterMax : (s.poweredOn).sqrtIterMax = State.reset.sqrtIterMax := rfl
@[simp] theorem poweredOn_sqrtIterUsed : (s.poweredOn).sqrtIterUsed = State.reset.sqrtIterUsed := rfl
@[simp] theorem poweredOn_readData : (s.poweredOn).readData = s.readData := rfl
@[simp] theorem poweredOn_agenda : (s.poweredOn).agenda = s.agenda := rfl
@[simp] theorem poweredOn_entropy : (s.poweredOn).entropy = s.entropy := rfl

end Sys2Proof.Machine.State
end

