-- ==== Sys2Proof/Laws/Ops.lean ====
section
/-! SUPPORT. What the shared operations can do: registers, points, completion, the BMEM ranges of the codec commands
and the end of the square-root commands. -/

namespace Sys2Proof.Machine

/-! ## Registers (R11, R18) -/

theorem State.reg_setReg (s : State) (i j : BReg) (v : Big) :
    (s.setReg i v).reg j = if i = j then v else s.reg j := by
  unfold State.reg State.setReg
  simp only [Vector.getElem_set, Fin.ext_iff]

@[simp] theorem State.reg_setReg_same (s : State) (i : BReg) (v : Big) : (s.setReg i v).reg i = v := by
  simp [State.reg_setReg]

theorem State.reg_setReg_other (s : State) (i j : BReg) (v : Big) (h : i ≠ j) :
    (s.setReg i v).reg j = s.reg j := by
  simp [State.reg_setReg, h]

theorem State.num_setNum (s : State) (i j : BReg) (n : Nat) :
    (s.setNum i n).num j = if i = j then n % 2 ^ 256 else s.num j := by
  unfold State.num State.setNum
  rw [State.reg_setReg]
  split <;> simp

@[simp] theorem State.reg_completed (s : State) (e : ErrCode) (i : BReg) : (s.completed e).reg i = s.reg i := rfl
@[simp] theorem State.num_completed (s : State) (e : ErrCode) (i : BReg) : (s.completed e).num i = s.num i := rfl
@[simp] theorem State.reg_setSqrtUsed (s : State) (t : Nat) (ent : Entropy) (i : BReg) :
    (s.setSqrtUsed t ent).reg i = s.reg i := rfl
@[simp] theorem State.reg_setCurve (s : State) (p a b : Big) (i : BReg) : (s.setCurve p a b).reg i = s.reg i := rfl
@[simp] theorem State.reg_storeOutput (s : State) (out : List Byte) (i : BReg) :
    (s.storeOutput out).reg i = s.reg i := rfl
@[simp] theorem State.reg_issued (s : State) (v : Word) (i : BReg) : (s.issued v).reg i = s.reg i := rfl
@[simp] theorem State.reg_softReset (s : State) (i : BReg) : s.softReset.reg i = s.reg i := rfl

theorem State.num_lt (s : State) (i : BReg) : s.num i < 2 ^ 256 := (s.reg i).isLt

/-- The odd register of a pair is not its even one (R19). -/
theorem oddOf_ne (j : BReg) : oddOf j ≠ j := by revert j; decide

theorem State.reg_setPoint (s : State) (j i : BReg) (P : Point) :
    (s.setPoint j P).reg i =
      if oddOf j = i then BitVec.ofNat 256 P.2 else if j = i then BitVec.ofNat 256 P.1 else s.reg i := by
  unfold State.setPoint State.setNum
  rw [State.reg_setReg, State.reg_setReg]

/-! ## Completion (R40, R138) -/

theorem succeed_eq (s t : State) : succeed s = .next t ↔ t = s.completed .none := by
  simp [succeed, eq_comm]

theorem raise_eq (e : ErrCode) (s t : State) : raise e s = .next t ↔ t = s.completed e := by
  simp [raise, eq_comm]

/-! ## Points and the curve (R75, R104) -/

theorem withPoints_even (js : List BReg) (s : State) (k : Result) (h : js.all BReg.isPoint = true) :
    withPoints js s k = k := by
  simp [withPoints, h]

theorem withCurve_valid (s : State) (k : Result) (h : s.curveValid = true) : withCurve s k = k := by
  simp [withCurve, h]

theorem withCurve_none (s : State) (k : Result) (h : s.curveValid = false) : withCurve s k = raise .noCurve s := by
  simp [withCurve, h]

/-! ## BMEM ranges (R56, R133) -/

/-- Everything CheckSrc can do: BOUNDS, the fault on an unwritten byte of the range, or the input bytes. -/
theorem withSrc_cases (s : State) (k : List Byte → Result) :
    (s.srcAddr.toNat + s.srcLen.toNat > Config.bmemSize ∧ withSrc s k = raise .bounds s) ∨
    (s.srcAddr.toNat + s.srcLen.toNat ≤ Config.bmemSize ∧
      ∃ a, s.srcAddr.toNat ≤ a ∧ a < s.srcAddr.toNat + s.srcLen.toNat ∧ s.bmem.readByte a = none ∧
        withSrc s k = .fault (.unwrittenByte a)) ∨
    (s.srcAddr.toNat + s.srcLen.toNat ≤ Config.bmemSize ∧
      ∃ bs, s.bmem.readBytes s.srcAddr.toNat s.srcLen.toNat = .ok bs ∧ withSrc s k = k bs) := by
  by_cases h : s.srcAddr.toNat + s.srcLen.toNat > Config.bmemSize
  · exact .inl ⟨h, by simp [withSrc, h]⟩
  · cases hr : s.bmem.readBytes s.srcAddr.toNat s.srcLen.toNat with
    | error a =>
      obtain ⟨h1, h2, h3⟩ := Memory.readBytes_error _ _ _ _ hr
      exact .inr (.inl ⟨by omega, a, h1, h2, h3, by simp [withSrc, h, hr]⟩)
    | ok bs => exact .inr (.inr ⟨by omega, bs, rfl, by simp [withSrc, h, hr]⟩)

theorem withSrc_ok (s : State) (k : List Byte → Result) (bs : List Byte)
    (h : s.srcAddr.toNat + s.srcLen.toNat ≤ Config.bmemSize)
    (hr : s.bmem.readBytes s.srcAddr.toNat s.srcLen.toNat = .ok bs) : withSrc s k = k bs := by
  simp [withSrc, Nat.not_lt.mpr h, hr]

/-- Everything CheckDst and the write after it can do. -/
theorem deliver_cases (s : State) (out : List Byte) :
    (s.dstAddr.toNat + out.length > Config.bmemSize ∧ deliver s out = raise .bounds s) ∨
    (s.dstAddr.toNat + out.length ≤ Config.bmemSize ∧ deliver s out = succeed (s.storeOutput out)) := by
  by_cases h : s.dstAddr.toNat + out.length > Config.bmemSize
  · exact .inl ⟨h, by simp [deliver, h]⟩
  · exact .inr ⟨by omega, by simp [deliver, h]⟩

/-- Everything a codec command from BMEM to BMEM can do. -/
theorem codec_cases (f : List Byte → Except ErrCode (List Byte)) (s : State) :
    (∃ e, codec f s = raise e s) ∨
    (∃ a, s.srcAddr.toNat ≤ a ∧ a < s.srcAddr.toNat + s.srcLen.toNat ∧
      s.srcAddr.toNat + s.srcLen.toNat ≤ Config.bmemSize ∧ s.bmem.readByte a = none ∧
      codec f s = .fault (.unwrittenByte a)) ∨
    (∃ bs out, s.bmem.readBytes s.srcAddr.toNat s.srcLen.toNat = .ok bs ∧ f bs = .ok out ∧
      s.srcAddr.toNat + s.srcLen.toNat ≤ Config.bmemSize ∧
      s.dstAddr.toNat + out.length ≤ Config.bmemSize ∧ codec f s = succeed (s.storeOutput out)) := by
  unfold codec
  rcases withSrc_cases s (codecOn f s) with ⟨_, h⟩ | ⟨hb, a, h1, h2, h3, h⟩ | ⟨hb, bs, hr, h⟩
  · exact .inl ⟨_, h⟩
  · exact .inr (.inl ⟨a, h1, h2, hb, h3, h⟩)
  · rw [h, codecOn]
    cases hf : f bs with
    | error e => exact .inl ⟨e, rfl⟩
    | ok out =>
      rcases deliver_cases s out with ⟨_, hd⟩ | ⟨hd, he⟩
      · exact .inl ⟨_, hd⟩
      · exact .inr (.inr ⟨bs, out, hr, hf, hb, hd, he⟩)

/-- A codec command whose input can be read and converted and whose output fits. -/
theorem codec_ok (f : List Byte → Except ErrCode (List Byte)) (s : State) (bs out : List Byte)
    (hb : s.srcAddr.toNat + s.srcLen.toNat ≤ Config.bmemSize)
    (hr : s.bmem.readBytes s.srcAddr.toNat s.srcLen.toNat = .ok bs) (hf : f bs = .ok out)
    (hd : s.dstAddr.toNat + out.length ≤ Config.bmemSize) : codec f s = succeed (s.storeOutput out) := by
  unfold codec
  rw [withSrc_ok s _ bs hb hr, codecOn, hf]
  simp [deliver, Nat.not_lt.mpr hd]

/-! ## The end of the square-root commands (R90, R107) -/

/-- Everything the end of MODSQRT and YFROMX can do. -/
theorem finishSqrt_cases (rd : BReg) (o : SqrtOutcome) (s : State) :
    (∃ y t ent, o = .root y t ent ∧ finishSqrt rd o s = succeed ((s.setSqrtUsed t ent).setNum rd y)) ∨
    (∃ e t ent, o = .failed e t ent ∧ finishSqrt rd o s = raise e (s.setSqrtUsed t ent)) := by
  cases o with
  | root y t ent => exact .inl ⟨y, t, ent, rfl, rfl⟩
  | failed e t ent => exact .inr ⟨e, t, ent, rfl, rfl⟩

end Sys2Proof.Machine
end

