-- ==== Sys2Proof/Laws/Access.lean ====
section
/-! SUPPORT. Where the windows of the register map lie, and what a host write can do
(spec/10_state.md R24 to R39, spec/20_memory.md R52, R53). -/

namespace Sys2Proof.Machine

/-- The offset as a number decides the target. -/
theorem Target.ofOffset_eq (off : Offset) (n : Nat) (h : off.toNat = n) : Target.ofOffset off = Target.ofOffset (BitVec.ofNat 13 n) := by
  subst h; simp

theorem Target.ofOffset_reserved (off : Offset)
    (h : 0x0028 ≤ off.toNat ∧ off.toNat < 0x0400 ∨ 0x0660 ≤ off.toNat ∧ off.toNat < 0x1000) :
    Target.ofOffset off = .reserved := by
  unfold Target.ofOffset
  rcases h with ⟨h1, h2⟩ | ⟨h1, h2⟩
  · iterate 10 rw [if_neg (by omega)]
    rw [if_pos h2]
  · iterate 15 rw [if_neg (by omega)]
    rw [if_pos h2]

theorem Target.ofOffset_breg (i : BReg) (j : Fin 8) :
    Target.ofOffset (BitVec.ofNat 13 (0x0400 + 32 * i.val + 4 * j.val)) = .breg i j.val := by
  revert i j; decide

theorem Target.ofOffset_bregRange (off : Offset) (h1 : 0x0400 ≤ off.toNat) (h2 : off.toNat < 0x0600) :
    ∃ i j, Target.ofOffset off = .breg i j := by
  refine ⟨Fin.ofNat 16 ((off.toNat - 0x0400) / 32), (off.toNat - 0x0400) % 32 / 4, ?_⟩
  unfold Target.ofOffset
  iterate 11 rw [if_neg (by omega)]
  rw [if_pos h2]

theorem Target.ofOffset_curveP (j : Fin 8) :
    Target.ofOffset (BitVec.ofNat 13 (0x0600 + 4 * j.val)) = .curve .p j.val := by
  revert j; decide

theorem Target.ofOffset_curveA (j : Fin 8) :
    Target.ofOffset (BitVec.ofNat 13 (0x0620 + 4 * j.val)) = .curve .a j.val := by
  revert j; decide

theorem Target.ofOffset_curveB (j : Fin 8) :
    Target.ofOffset (BitVec.ofNat 13 (0x0640 + 4 * j.val)) = .curve .b j.val := by
  revert j; decide

theorem Target.ofOffset_curveRange (off : Offset) (h1 : 0x0600 ≤ off.toNat) (h2 : off.toNat < 0x0660) :
    ∃ c j, Target.ofOffset off = .curve c j := by
  by_cases ha : off.toNat < 0x0620
  · refine ⟨.p, (off.toNat - 0x0600) / 4, ?_⟩
    unfold Target.ofOffset
    iterate 12 rw [if_neg (by omega)]
    rw [if_pos ha]
  · by_cases hb : off.toNat < 0x0640
    · refine ⟨.a, (off.toNat - 0x0620) / 4, ?_⟩
      unfold Target.ofOffset
      iterate 13 rw [if_neg (by omega)]
      rw [if_pos hb]
    · refine ⟨.b, (off.toNat - 0x0640) / 4, ?_⟩
      unfold Target.ofOffset
      iterate 14 rw [if_neg (by omega)]
      rw [if_pos h2]

/-- The BMEM window: the word at an offset, and it lies inside BMEM. -/
theorem Target.ofOffset_bmem (off : Offset) (h : 0x1000 ≤ off.toNat) :
    Target.ofOffset off = .bmem ((off.toNat - 0x1000) / 4 * 4) := by
  unfold Target.ofOffset
  iterate 16 rw [if_neg (by omega)]

theorem Target.skip (c : Prop) [Decidable c] (x y z : Target) (h : (if c then x else y) = z) (hx : x ≠ z) :
    ¬ c ∧ y = z := by
  split at h
  · exact absurd h hx
  · exact ⟨‹_›, h⟩

/-- Only the BMEM window names BMEM, and each of its words lies inside BMEM (R39). -/
theorem Target.bmem_inside (off : Offset) (a : Nat) (h : Target.ofOffset off = .bmem a) :
    0x1000 ≤ off.toNat ∧ a + 4 ≤ Config.bmemSize := by
  unfold Target.ofOffset at h
  dsimp only at h
  iterate 15 replace h := (Target.skip _ _ _ _ h (by simp)).2
  obtain ⟨hn, h⟩ := Target.skip _ _ _ _ h (by simp)
  cases h
  have := off.isLt
  have : Config.bmemSize = 4096 := rfl
  omega

/-! ## Reading and writing a word of a 256-bit register (R37) -/

/-- The word just written reads back, and the other seven words are as before. -/
theorem bigWord_setBigWord (v : Big) (j j' : Fin 8) (w : Word) :
    bigWord (setBigWord v j.val w) j'.val = if j' = j then w else bigWord v j'.val := by
  unfold bigWord setBigWord
  ext k hk
  simp only [BitVec.getElem_extractLsb', BitVec.getLsbD_or, BitVec.getLsbD_and, BitVec.getLsbD_not,
    BitVec.getLsbD_shiftLeft, BitVec.getLsbD_setWidth, BitVec.getLsbD_allOnes]
  have := j.isLt
  have := j'.isLt
  by_cases h : j' = j
  · subst h
    simp [hk, show k < 256 by omega, show 224 - 32 * j'.val + k < 256 by omega]
  · have hne : j'.val ≠ j.val := fun e => h (Fin.ext e)
    simp only [h, if_false, BitVec.getElem_extractLsb']
    by_cases hlt : 224 - 32 * j'.val + k < 224 - 32 * j.val
    · simp [hlt, show 224 - 32 * j'.val + k < 256 by omega]
    · have h32 : ¬ 224 - 32 * j'.val + k - (224 - 32 * j.val) < 32 := by omega
      have hw : w.getLsbD (224 - 32 * j'.val + k - (224 - 32 * j.val)) = false :=
        BitVec.getLsbD_of_ge _ _ (by omega)
      simp [hlt, h32, hw, show 224 - 32 * j'.val + k < 256 by omega]

end Sys2Proof.Machine
end

