-- ==== Sys2Proof/Laws/Encoding.lean ====
section
/-! SUPPORT. The fields of a packed command word (spec/30_encoding.md R70). -/

namespace Sys2Proof

variable (o : BitVec 8) (rd rs1 rs2 rs3 : BReg)

theorem packWord_toNat :
    (packWord o rd rs1 rs2 rs3).toNat =
      o.toNat + rd.val * 2 ^ 8 + rs1.val * 2 ^ 12 + rs2.val * 2 ^ 16 + rs3.val * 2 ^ 20 := by
  have := o.isLt
  have := rd.isLt
  have := rs1.isLt
  have := rs2.isLt
  have := rs3.isLt
  simp only [packWord, BReg.bits, BitVec.toNat_append, BitVec.toNat_ofFin, BitVec.toNat_ofNat]
  rw [← Nat.shiftLeft_add_eq_or_of_lt (by omega), ← Nat.shiftLeft_add_eq_or_of_lt (by omega),
    ← Nat.shiftLeft_add_eq_or_of_lt (by omega), ← Nat.shiftLeft_add_eq_or_of_lt (by omega),
    ← Nat.shiftLeft_add_eq_or_of_lt (by omega)]
  simp only [Nat.shiftLeft_eq]
  omega

@[simp] theorem opcField_packWord : opcField (packWord o rd rs1 rs2 rs3) = o := by
  have := o.isLt
  apply BitVec.eq_of_toNat_eq
  simp only [opcField, BitVec.extractLsb'_toNat, packWord_toNat, Nat.shiftRight_eq_div_pow]
  omega

@[simp] theorem rdField_packWord : rdField (packWord o rd rs1 rs2 rs3) = rd := by
  have := o.isLt
  apply Fin.ext
  simp only [rdField, BitVec.val_toFin, BitVec.extractLsb'_toNat, packWord_toNat, Nat.shiftRight_eq_div_pow]
  omega

@[simp] theorem rs1Field_packWord : rs1Field (packWord o rd rs1 rs2 rs3) = rs1 := by
  have := o.isLt
  apply Fin.ext
  simp only [rs1Field, BitVec.val_toFin, BitVec.extractLsb'_toNat, packWord_toNat, Nat.shiftRight_eq_div_pow]
  omega

@[simp] theorem rs2Field_packWord : rs2Field (packWord o rd rs1 rs2 rs3) = rs2 := by
  have := o.isLt
  apply Fin.ext
  simp only [rs2Field, BitVec.val_toFin, BitVec.extractLsb'_toNat, packWord_toNat, Nat.shiftRight_eq_div_pow]
  omega

@[simp] theorem rs3Field_packWord : rs3Field (packWord o rd rs1 rs2 rs3) = rs3 := by
  have := o.isLt
  apply Fin.ext
  simp only [rs3Field, BitVec.val_toFin, BitVec.extractLsb'_toNat, packWord_toNat, Nat.shiftRight_eq_div_pow]
  omega

@[simp] theorem rsvField_packWord : rsvField (packWord o rd rs1 rs2 rs3) = 0#8 := by
  have := o.isLt
  apply BitVec.eq_of_toNat_eq
  simp only [rsvField, BitVec.extractLsb'_toNat, packWord_toNat, Nat.shiftRight_eq_div_pow, BitVec.toNat_ofNat]
  omega

/-- The opcode map is one to one (R72). -/
theorem Opcode.ofCode_eq_some (o : Opcode) (b : BitVec 8) : Opcode.ofCode b = some o ↔ b = o.code := by
  constructor
  · intro h
    have hb : (o.code == b) = true := List.find?_some (p := fun o : Opcode => o.code == b) h
    exact (eq_of_beq hb).symm
  · rintro rfl
    cases o <;> decide

/-- A word that decodes carries the opcode of its command (R72, R76). -/
theorem opcField_of_decode (w : Word) (i : Instr) (h : decode w = .ok i) : opcField w = i.opcode.code := by
  unfold decode at h
  split at h
  · cases h
  · rename_i o ho
    split at h
    · split at h
      · simp only [Except.ok.injEq] at h
        subst h
        rw [(Opcode.ofCode_eq_some o _).mp ho]
        cases o <;> rfl
      · cases h
    · cases h

end Sys2Proof
end

