-- ==== Sys2Proof/Laws/Exec.lean ====
section
/-! SUPPORT. Everything the completion of a command can do, said once over the sixteen commands
(spec/10_state.md R40 b, spec/60_exceptions.md R138), and the events of a step that are not completions. -/

namespace Sys2Proof.Machine

/-- The ways a completion can end. -/
inductive Ending (i : Instr) (s : State) : Result → Prop where
  /-- an error, with nothing committed (R138) -/
  | raised (e : ErrCode) (he : e ≠ .none) (h : takesRoot i = false) : Ending i s (raise e s)
  /-- an error of a square-root command, with SQRT_ITER_USED written (R36) -/
  | rootFailed (e : ErrCode) (t : Nat) (ent : Entropy) (he : e ≠ .none) (h : takesRoot i = true)
      (ho : ∃ g p, modSqrt g p s.sqrtIterMax.toNat s.entropy = .failed e t ent ∨ (t = 0 ∧ ent = s.entropy)) :
      Ending i s (raise e (s.setSqrtUsed t ent))
  /-- a root (R90, R107) -/
  | root (rd : BReg) (y t : Nat) (ent : Entropy) (h : takesRoot i = true) (hd : destRegs i = [rd])
      (ho : ∃ g p, modSqrt g p s.sqrtIterMax.toNat s.entropy = .root y t ent) :
      Ending i s (succeed ((s.setSqrtUsed t ent).setNum rd y))
  /-- a number in one register -/
  | number (rd : BReg) (v : Nat) (h : takesRoot i = false) (hw : writesBmem i = false) (hd : destRegs i = [rd]) :
      Ending i s (succeed (s.setNum rd v))
  /-- a point in a register pair (R19) -/
  | point (rd : BReg) (P : Point) (h : takesRoot i = false) (hw : writesBmem i = false)
      (hd : destRegs i = [rd, oddOf rd]) : Ending i s (succeed (s.setPoint rd P))
  /-- a new curve (R103) -/
  | curve (rs1 rs2 rs3 : BReg) (hi : i = .curveset rs1 rs2 rs3)
      (hc : curveCheck (s.num rs1) (s.num rs2) (s.num rs3) = none) :
      Ending i s (succeed (s.setCurve (s.reg rs1) (s.reg rs2) (s.reg rs3)))
  /-- an output in BMEM (R34, R56) -/
  | output (out : List Byte) (h : takesRoot i = false) (hw : writesBmem i = true) (hd : destRegs i = [])
      (hf : s.dstAddr.toNat + out.length ≤ Config.bmemSize) : Ending i s (succeed (s.storeOutput out))
  /-- the stop on an input byte that was never written (R133) -/
  | unwritten (a : Nat) (hr : readsBmem i = true) (h1 : s.srcAddr.toNat ≤ a)
      (h2 : a < s.srcAddr.toNat + s.srcLen.toNat) (h3 : s.srcAddr.toNat + s.srcLen.toNat ≤ Config.bmemSize)
      (h4 : s.bmem.readByte a = none) : Ending i s (.fault (.unwrittenByte a))

/-! ## The errors the functions raise are codes of R136, never 0 -/

theorem sqrtCLoop_failed (g p left t : Nat) (ent : Entropy) (e : ErrCode) (t' : Nat) (ent' : Entropy)
    (h : sqrtCLoop g p left t ent = .failed e t' ent') : e ≠ .none := by
  induction left generalizing t ent with
  | zero => cases h; decide
  | succ n ih =>
    simp only [sqrtCLoop] at h
    split at h
    · cases h
    · cases h; decide
    · exact ih _ _ h

theorem modSqrt_failed (g p cap : Nat) (ent : Entropy) (e : ErrCode) (t : Nat) (ent' : Entropy)
    (h : modSqrt g p cap ent = .failed e t ent') : e ≠ .none := by
  simp only [modSqrt, sqrtA, sqrtB, sqrtC] at h
  split at h
  · cases h; decide
  · split at h
    · split at h <;> cases h; decide
    · split at h
      · split at h
        · cases h
        · split at h <;> cases h; decide
      · exact sqrtCLoop_failed _ _ _ _ _ _ _ _ h

theorem curveCheck_some (p a b : Nat) (e : ErrCode) (h : curveCheck p a b = some e) : e ≠ .none := by
  unfold curveCheck at h
  split at h
  · cases h; decide
  · split at h <;> cases h; decide

theorem bytesToInt_error (bs : List Byte) (e : ErrCode) (h : bytesToInt bs = .error e) : e ≠ .none := by
  unfold bytesToInt at h
  split at h <;> cases h; decide

theorem base85Decode_error (unsym : Byte → Option Nat) (bs : List Byte) (e : ErrCode)
    (h : base85Decode unsym bs = .error e) : e ≠ .none := by
  unfold base85Decode at h
  split at h
  · cases h; decide
  · split at h
    · cases h; decide
    · simp only [unpad] at h
      split at h <;> cases h; decide

theorem encodeText_error (bs : List Byte) (e : ErrCode) (h : encodeText bs = .error e) : e ≠ .none := by
  unfold encodeText utf8Encode at h
  split at h
  · cases h; decide
  · split at h <;> cases h; decide

theorem decodeText_error (bs : List Byte) (e : ErrCode) (h : decodeText bs = .error e) : e ≠ .none := by
  unfold decodeText utf8Decode at h
  split at h
  · rename_i e' he
    split at he <;> cases he
    cases h; decide
  · cases h

/-! ## Every completion ends in one of these ways -/

theorem codec_ending (i : Instr) (s : State) (f : List Byte → Except ErrCode (List Byte))
    (hf : ∀ bs e, f bs = .error e → e ≠ .none)
    (h : takesRoot i = false) (hr : readsBmem i = true) (hw : writesBmem i = true) (hd : destRegs i = []) :
    Ending i s (codec f s) := by
  unfold codec
  rcases withSrc_cases s (codecOn f s) with ⟨_, h1⟩ | ⟨h3, a, h1, h2, h4, h5⟩ | ⟨_, bs, _, h1⟩
  · exact h1 ▸ .raised _ (by decide) h
  · exact h5 ▸ .unwritten a hr h1 h2 h3 h4
  · rw [h1, codecOn]
    split
    · exact .raised _ (hf _ _ ‹_›) h
    · rcases deliver_cases s ‹_› with ⟨_, h5⟩ | ⟨hb, h5⟩
      · exact h5 ▸ .raised _ (by decide) h
      · exact h5 ▸ .output _ h hw hd hb

theorem finishSqrt_ending (i : Instr) (s : State) (rd : BReg) (g p : Nat) (h : takesRoot i = true)
    (hd : destRegs i = [rd]) :
    Ending i s (finishSqrt rd (modSqrt g p s.sqrtIterMax.toNat s.entropy) s) := by
  rcases finishSqrt_cases rd (modSqrt g p s.sqrtIterMax.toNat s.entropy) s with
    ⟨y, t, ent, ho, he⟩ | ⟨e, t, ent, ho, he⟩
  · exact he ▸ .root rd y t ent h hd ⟨g, p, ho⟩
  · exact he ▸ .rootFailed e t ent (modSqrt_failed _ _ _ _ _ _ _ ho) h ⟨g, p, .inl ho⟩

/-- The completion of a point command: an operand error, no curve, or its point. -/
theorem points_ending (i : Instr) (s : State) (js : List BReg) (rd : BReg) (P : Point) (h : takesRoot i = false)
    (hw : writesBmem i = false) (hd : destRegs i = [rd, oddOf rd]) :
    Ending i s (withPoints js s (withCurve s (succeed (s.setPoint rd P)))) := by
  unfold withPoints withCurve
  split
  · split
    · exact .point rd P h hw hd
    · exact .raised _ (by decide) h
  · exact .raised _ (by decide) h

/-- Every completion ends in one of the ways of `Ending`. -/
theorem exec_ending (i : Instr) (s : State) : Ending i s (exec i s) := by
  cases i with
  | modexp rd rs1 rs2 rs3 =>
    simp only [exec, execModexp]
    split
    · exact .raised _ (by decide) rfl
    · exact .number rd _ rfl rfl rfl
  | modinv rd rs1 rs2 =>
    simp only [exec, execModinv]
    split
    · exact .raised _ (by decide) rfl
    · exact .number rd _ rfl rfl rfl
  | modsqrt rd rs1 rs2 => exact finishSqrt_ending _ s rd _ _ rfl rfl
  | curveset rs1 rs2 rs3 =>
    simp only [exec, execCurveset]
    split
    · exact .raised _ (curveCheck_some _ _ _ _ ‹_›) rfl
    · exact .curve rs1 rs2 rs3 rfl ‹_›
  | padd rd rs1 rs2 => exact points_ending _ s _ rd _ rfl rfl rfl
  | pdbl rd rs1 => exact points_ending _ s _ rd _ rfl rfl rfl
  | pmul rd rs1 rs2 => exact points_ending _ s _ rd _ rfl rfl rfl
  | yfromx rd rs1 =>
    simp only [exec, execYfromx]
    split
    · exact finishSqrt_ending _ s rd _ _ rfl rfl
    · exact .rootFailed _ 0 _ (by decide) rfl ⟨0, 0, .inr ⟨rfl, rfl⟩⟩
  | i2b rs1 =>
    simp only [exec, execI2b]
    rcases deliver_cases s (intToBytes (s.num rs1)) with ⟨_, h⟩ | ⟨hf, h⟩
    · exact h ▸ .raised _ (by decide) rfl
    · exact h ▸ .output _ rfl rfl rfl hf
  | b2i rd =>
    simp only [exec, execB2i]
    rcases withSrc_cases s (loadInteger rd s) with
      ⟨_, h⟩ | ⟨h3, a, h1, h2, h4, h⟩ | ⟨_, bs, _, h⟩
    · exact h ▸ .raised _ (by decide) rfl
    · exact h ▸ .unwritten a rfl h1 h2 h3 h4
    · rw [h, loadInteger]
      split
      · exact .raised _ (bytesToInt_error _ _ ‹_›) rfl
      · exact .number rd _ rfl rfl rfl
  | b85e => exact codec_ending _ s _ (fun _ _ h => by cases h) rfl rfl rfl rfl
  | b85d => exact codec_ending _ s _ (base85Decode_error _) rfl rfl rfl rfl
  | a85e => exact codec_ending _ s _ (fun _ _ h => by cases h) rfl rfl rfl rfl
  | a85d => exact codec_ending _ s _ (base85Decode_error _) rfl rfl rfl rfl
  | u8e => exact codec_ending _ s _ encodeText_error rfl rfl rfl rfl
  | u8d => exact codec_ending _ s _ decodeText_error rfl rfl rfl rfl

/-- The same of a next state. -/
theorem exec_next (i : Instr) (s t : State) (h : exec i s = .next t) : Ending i s (.next t) := h ▸ exec_ending i s

/-- No completion touches what lies outside the engine's commands. -/
theorem exec_agenda (i : Instr) (s t : State) (h : exec i s = .next t) : t.agenda = s.agenda := by
  have e := exec_next i s t h
  generalize hr : (Host.Outcome.next t : Result) = r at e
  cases e <;> simp only [raise, succeed, Host.Outcome.next.injEq, reduceCtorEq] at hr <;> subst hr <;> rfl

end Sys2Proof.Machine
end

