-- ==== Sys2Proof/Laws/Loops.lean ====
section
/-! SUPPORT. What the loops of the arithmetic kernel and of the codecs compute
(spec/40_modarith.md R81, R87; spec/00_scope.md R10). -/

namespace Sys2Proof.Machine

/-! ## Square and multiply (R81) -/

/-- The low i + 1 bits of a number: bit i on top of the low i bits. -/
theorem mod_two_pow_succ_testBit (e i : Nat) : e % 2 ^ (i + 1) = (if e.testBit i then 2 ^ i else 0) + e % 2 ^ i := by
  rw [pow_succ, Nat.mod_mul, Nat.testBit_eq_decide_div_mod_eq]
  rcases Nat.mod_two_eq_zero_or_one (e / 2 ^ i) with h | h <;> simp [h, add_comm]

/-- i rounds from `acc` give acc^(2^i) · base^(the low i bits of er). -/
theorem modPowLoop_modEq (base er m i acc : Nat) :
    modPowLoop base er m i acc ≡ acc ^ 2 ^ i * base ^ (er % 2 ^ i) [MOD m] := by
  induction i generalizing acc with
  | zero => simp [modPowLoop, Nat.mod_one]; rfl
  | succ i ih =>
    rw [modPowLoop]
    refine (ih _).trans ?_
    rw [mod_two_pow_succ_testBit, pow_add base, ← mul_assoc, pow_succ' 2 i, pow_mul acc]
    refine Nat.ModEq.mul_right _ ?_
    split
    · rw [← mul_pow]
      refine Nat.ModEq.pow _ ((Nat.mod_modEq _ _).trans ?_)
      rw [pow_two]
      exact (Nat.mod_modEq _ _).mul_right _
    · rw [pow_zero, mul_one]
      refine Nat.ModEq.pow _ ((Nat.mod_modEq _ _).trans ?_)
      rw [pow_two]

/-- The result is reduced when the accumulator is. -/
theorem modPowLoop_lt (base er m i acc : Nat) (hm : 0 < m) (h : acc < m) : modPowLoop base er m i acc < m := by
  induction i generalizing acc with
  | zero => exact h
  | succ i ih =>
    refine ih _ ?_
    split <;> exact Nat.mod_lt _ hm

theorem lt_two_pow_bitlen (v : Nat) : v < 2 ^ bitlen v := by
  unfold bitlen
  split
  · omega
  · exact Nat.lt_log2_self

/-! ## Draws (R60, R87) -/

/-- A draw uses up one value of the supply and counts as one. -/
theorem draw_entropy (p : Nat) (ent : Entropy) :
    (draw p ent).2 = ⟨ent.supply.drop 1, ent.drawn + 1⟩ := by
  unfold draw
  split <;> rename_i h <;> simp [h]

theorem draw_lt (p : Nat) (ent : Entropy) (h : 0 < p) : (draw p ent).1 < p := by
  unfold draw
  split <;> exact Nat.mod_lt _ h

/-- The attempts and the entropy source an outcome reports. -/
def SqrtOutcome.attempts : SqrtOutcome → Nat × Entropy
  | .root _ t ent => (t, ent)
  | .failed _ t ent => (t, ent)

/-- The attempt loop makes at most `left` further draws, each from the supply. -/
theorem sqrtCLoop_attempts (g p left t : Nat) (ent : Entropy) :
    ∃ n, n ≤ left ∧ (sqrtCLoop g p left t ent).attempts = (t + n, ⟨ent.supply.drop n, ent.drawn + n⟩) := by
  induction left generalizing t ent with
  | zero => exact ⟨0, le_refl 0, rfl⟩
  | succ left ih =>
    rw [sqrtCLoop, draw_entropy]
    split
    · exact ⟨1, by omega, rfl⟩
    · exact ⟨1, by omega, rfl⟩
    · obtain ⟨n, hn, h⟩ := ih (t + 1) ⟨ent.supply.drop 1, ent.drawn + 1⟩
      refine ⟨n + 1, by omega, ?_⟩
      rw [h, List.drop_drop]
      simp only [Prod.mk.injEq, Entropy.mk.injEq]
      exact ⟨by omega, by rw [Nat.add_comm], by omega⟩

/-! ## Big-endian images (R10) -/

theorem beBytes_length (v n : Nat) : (beBytes v n).length = n := by
  induction n with
  | zero => rfl
  | succ n ih => simp [beBytes, ih]

theorem beValue_foldl (bs : List Byte) (v : Nat) :
    bs.foldl (fun v b => v * 256 + b.toNat) v = v * 256 ^ bs.length + beValue bs := by
  induction bs generalizing v with
  | nil => simp [beValue]
  | cons b bs ih =>
    simp only [beValue, List.foldl_cons, List.length_cons]
    rw [ih, ih (0 * 256 + b.toNat)]
    ring

theorem beValue_cons (b : Byte) (bs : List Byte) : beValue (b :: bs) = b.toNat * 256 ^ bs.length + beValue bs := by
  rw [beValue, List.foldl_cons, beValue_foldl]
  simp

/-- The image of a value below 256^n has that value. -/
theorem beValue_beBytes (v n : Nat) : beValue (beBytes v n) = v % 256 ^ n := by
  induction n with
  | zero => simp [beBytes, beValue, Nat.mod_one]
  | succ n ih =>
    rw [beBytes, beValue_cons, beBytes_length, ih, BitVec.toNat_ofNat, pow_succ 256 n, Nat.mod_mul, Nat.add_comm,
      Nat.mul_comm]

end Sys2Proof.Machine
end

