-- ==== Sys2Proof/Laws/PerInstr.lean ====
section
/-! SUPPORT. Facts about each command as syntax, one lemma per constructor. -/

namespace Sys2Proof.Laws.EncodedHeader

/-- The word of a command carries the opcode of its row, and its reserved bits are 0 (R70, R72). -/
def Statement (i : Instr) : Prop := opcField (encode i) = i.opcode.code ∧ rsvField (encode i) = 0#8

theorem modexp (rd rs1 rs2 rs3 : BReg) : Statement (.modexp rd rs1 rs2 rs3) := by
  simp [Statement, encode, Instr.opcode, Opcode.code]
theorem modinv (rd rs1 rs2 : BReg) : Statement (.modinv rd rs1 rs2) := by
  simp [Statement, encode, Instr.opcode, Opcode.code]
theorem modsqrt (rd rs1 rs2 : BReg) : Statement (.modsqrt rd rs1 rs2) := by
  simp [Statement, encode, Instr.opcode, Opcode.code]
theorem curveset (rs1 rs2 rs3 : BReg) : Statement (.curveset rs1 rs2 rs3) := by
  simp [Statement, encode, Instr.opcode, Opcode.code]
theorem padd (rd rs1 rs2 : BReg) : Statement (.padd rd rs1 rs2) := by
  simp [Statement, encode, Instr.opcode, Opcode.code]
theorem pdbl (rd rs1 : BReg) : Statement (.pdbl rd rs1) := by
  simp [Statement, encode, Instr.opcode, Opcode.code]
theorem pmul (rd rs1 rs2 : BReg) : Statement (.pmul rd rs1 rs2) := by
  simp [Statement, encode, Instr.opcode, Opcode.code]
theorem yfromx (rd rs1 : BReg) : Statement (.yfromx rd rs1) := by
  simp [Statement, encode, Instr.opcode, Opcode.code]
theorem i2b (rs1 : BReg) : Statement (.i2b rs1) := by
  simp [Statement, encode, Instr.opcode, Opcode.code]
theorem b2i (rd : BReg) : Statement (.b2i rd) := by
  simp [Statement, encode, Instr.opcode, Opcode.code]
theorem b85e : Statement .b85e := by simp [Statement, encode, Instr.opcode, Opcode.code]
theorem b85d : Statement .b85d := by simp [Statement, encode, Instr.opcode, Opcode.code]
theorem a85e : Statement .a85e := by simp [Statement, encode, Instr.opcode, Opcode.code]
theorem a85d : Statement .a85d := by simp [Statement, encode, Instr.opcode, Opcode.code]
theorem u8e : Statement .u8e := by simp [Statement, encode, Instr.opcode, Opcode.code]
theorem u8d : Statement .u8d := by simp [Statement, encode, Instr.opcode, Opcode.code]

end Sys2Proof.Laws.EncodedHeader
end

