-- ==== Sys2Proof/Laws/Step.lean ====
section
/-! SUPPORT. Steps and runs of the machine behind the host's interface (spec/20_memory.md R59). -/

namespace Sys2Proof.Machine

/-- One step of a run of any machine. -/
theorem run_next_of (M : Host.Core) {s u : M.State} (k : Nat) (h : M.step s = .next u) :
    Host.Core.run M (k + 1) s = Host.Core.run M k u := by
  rw [Host.Core.run.eq_2, h]

theorem run_fault_of (M : Host.Core) {s : M.State} (k : Nat) (f : M.Fault) (h : M.step s = .fault f) :
    Host.Core.run M (k + 1) s = .fault f := by
  rw [Host.Core.run.eq_2, h]

theorem run_refused_of (M : Host.Core) {s : M.State} (k : Nat) (r : M.Refusal) (h : M.step s = .refused r) :
    Host.Core.run M (k + 1) s = .refused r := by
  rw [Host.Core.run.eq_2, h]

theorem core_step (s : State) : Sys2Proof.core.step s = step s := rfl

theorem run_zero (s : State) : Host.Core.run Sys2Proof.core 0 s = .next s := rfl

theorem run_next {s u : State} (k : Nat) (h : step s = .next u) :
    Host.Core.run Sys2Proof.core (k + 1) s = Host.Core.run Sys2Proof.core k u :=
  run_next_of Sys2Proof.core k h

theorem run_fault {s : State} (k : Nat) (f : Fault) (h : step s = .fault f) :
    Host.Core.run Sys2Proof.core (k + 1) s = .fault f :=
  run_fault_of Sys2Proof.core k f h

theorem run_refused {s : State} (k : Nat) (r : Refusal) (h : step s = .refused r) :
    Host.Core.run Sys2Proof.core (k + 1) s = .refused r :=
  run_refused_of Sys2Proof.core k r h

/-- A run of k + 1 steps that answers a state starts with a step that answers one. -/
theorem run_succ_next {s t : State} {k : Nat} (h : Host.Core.run Sys2Proof.core (k + 1) s = .next t) :
    ∃ u, step s = .next u ∧ Host.Core.run Sys2Proof.core k u = .next t := by
  cases hs : step s with
  | next u => exact ⟨u, rfl, run_next k hs ▸ h⟩
  | fault f => rw [run_fault k f hs] at h; cases h
  | refused r => rw [run_refused k r hs] at h; cases h

/-- With an empty agenda a step is the engine's turn. -/
theorem step_of_nil {s : State} (h : s.agenda = []) : step s = engineTurn s := by
  unfold step; rw [h]

/-- With an agenda a step is its first event, on the state without it. -/
theorem step_of_cons {s : State} {ev : Event} {rest : List Event} (h : s.agenda = ev :: rest) :
    step s = perform ev { s with agenda := rest } := by
  unfold step; rw [h]

end Sys2Proof.Machine
end

