-- ==== Sys2Proof/Tests/Slice0.lean ====
section
/-! SUPPORT. Tests: the expected values come from spec/95_test_vectors.md and the examples of the command rules, and the
witnesses of the statements' hypotheses. -/

open Sys2Proof Sys2Proof.Machine Sys2Proof.Spec

namespace Sys2Proof.Tests

/-! ## Helpers -/

/-- Registers set by number, on the power-on state. -/
def withRegs (l : List (BReg × Nat)) : State := l.foldl (fun s rv => s.setNum rv.1 rv.2) State.reset

/-- The same with the curve p, a, b constructed. -/
def onE (p a b : Nat) (l : List (BReg × Nat)) : State :=
  (withRegs l).setCurve (BitVec.ofNat 256 p) (BitVec.ofNat 256 a) (BitVec.ofNat 256 b)

/-- Bytes from numbers. -/
def bytes (l : List Nat) : List Byte := l.map (BitVec.ofNat 8)

/-- The input `bs` in BMEM at `src`, the output to go to `dst`. -/
def withInput (src dst : Nat) (bs : List Byte) : State :=
  { State.reset with
    bmem := Memory.writeBytes [] src bs, srcAddr := BitVec.ofNat 32 src, srcLen := BitVec.ofNat 32 bs.length
    dstAddr := BitVec.ofNat 32 dst }

/-- The state with the attempt cap and the draws of the entropy source. -/
def withDraws (cap : Nat) (xs : List Nat) (s : State) : State :=
  { s with sqrtIterMax := BitVec.ofNat 16 cap, entropy := ⟨xs, 0⟩ }

/-- The state in which the events still have to reach the engine. -/
def withEvents (l : List Event) (s : State) : State := { s with agenda := l }

/-- The state in which the command word w runs. -/
def running (w : Word) (s : State) : State := s.issued w

/-- Does a result answer a next state that passes a check? -/
def nextIs (r : Result) (f : State → Bool) : Bool :=
  match r with
  | .next t => f t
  | .fault _ => false
  | .refused _ => false

theorem exists_of_nextIs {r : Result} {f : State → Bool} (h : nextIs r f = true) : ∃ t, r = .next t ∧ f t = true := by
  cases r with
  | next t => exact ⟨t, rfl, h⟩
  | fault _ => cases h
  | refused _ => cases h

/-- The registers hold these values and the error code is e. -/
def ends (e : ErrCode) (l : List (BReg × Nat)) (t : State) : Bool :=
  t.errcode == e && t.done && t.phase == .idle && l.all fun rv => t.num rv.1 == rv.2

/-- The output bytes at DST_ADDR, with their number in OUT_LEN. -/
def outputs (out : List Byte) (t : State) : Bool :=
  t.errcode == .none && t.outLen == BitVec.ofNat 32 out.length &&
    decide (t.bmem.readBytes t.dstAddr.toNat out.length = .ok out)

/-! ## WellFormed -/

theorem test_wellFormed_refuses_odd_points :
    (Instr.padd 1 0 2).wellFormed = false ∧ (Instr.padd 4 1 2).wellFormed = false ∧
    (Instr.padd 4 0 3).wellFormed = false ∧ (Instr.pdbl 3 0).wellFormed = false ∧
    (Instr.pdbl 2 15).wellFormed = false ∧ (Instr.pmul 5 0 6).wellFormed = false ∧
    (Instr.pmul 4 7 6).wellFormed = false := by decide

theorem test_wellFormed_accepts : (Instr.pmul 4 0 7).wellFormed = true ∧ (Instr.padd 14 14 0).wellFormed = true ∧
    (Instr.modexp 15 13 11 9).wellFormed = true := by decide

/-! ## Decoding: the words of the spec's examples, and the errors of R73 to R76 -/

theorem test_decode_words : Obligations.WrittenOutWordsDecode := by
  unfold Obligations.WrittenOutWordsDecode; decide

/-- MODEXP B3, B0, B1, B2 bit by bit: RSV, RS3 = 2, RS2 = 1, RS1 = 0, RD = 3, OPC = 1 (R70, R88). -/
theorem test_decode_modexp_bits :
    decode (0b00000000#8 ++ 0b0010#4 ++ 0b0001#4 ++ 0b0000#4 ++ 0b0011#4 ++ 0b00000001#8) = .ok (.modexp 3 0 1 2) := by
  decide

theorem test_decode_order_of_errors :
    decode 0xFFFFFFFF#32 = .error .illegalOpcode ∧ decode 0x00000000#32 = .error .illegalOpcode ∧
    decode 0x01010111#32 = .error .nonzeroField ∧ decode 0x00010111#32 = .error .oddPoint ∧
    decode 0x00100202#32 = .error .nonzeroField ∧ decode 0x00000141#32 = .error .nonzeroField := by decide

theorem test_table_word : decodeTableWord 32 0x00210301 = some (.modexp 3 0 1 2) ∧
    decodeTableWord 32 0x00000004 = none := by decide

theorem test_legal_words_are_the_table :
    matchesTable 0x00060413#32 = true ∧ matchesTable 0x00060513#32 = false ∧ matchesTable 0x00070413#32 = true := by
  decide

theorem test_fetch_word_runs : ∀ o ∈ Opcode.all,
    nextIs (step (State.reset.withFetchWord 32 o.matchWord.toNat)) (fun t => t.done && t.phase == .idle) = true := by
  decide +kernel

/-! ## Modular arithmetic (95_test_vectors.md §2.1) -/

theorem test_modexp : nextIs (exec (.modexp 3 0 1 2) (withRegs [(0, 3), (1, 200), (2, 17)])) (ends .none [(3, 16)]) ∧
    nextIs (exec (.modexp 0 0 1 2) (withRegs [(0, 2), (1, 999), (2, 1000)])) (ends .none [(0, 1)]) := by decide +kernel

theorem test_modexp_wide : nextIs (exec (.modexp 2 0 0 1) (withRegs [(0, 2 ^ 256 - 1), (1, 2 ^ 255 + 95)]))
    (ends .none [(2, 24785474374925691994330579679883746510455468435254529577154867689073907619969)]) := by
  decide +kernel

theorem test_modinv : nextIs (exec (.modinv 2 0 1) (withRegs [(0, 3), (1, 17)])) (ends .none [(2, 6)]) ∧
    nextIs (exec (.modinv 2 0 1) (withRegs [(0, 6), (1, 9), (2, 7)])) (ends .none [(2, 0)]) := by decide +kernel

theorem test_modulus_errors : nextIs (exec (.modinv 2 0 1) (withRegs [(0, 3), (1, 1), (2, 7)])) (ends .modulus [(2, 7)]) ∧
    nextIs (exec (.modexp 2 0 1 3) (withRegs [(0, 3), (1, 1), (2, 7), (3, 1)])) (ends .modulus [(2, 7)]) := by
  decide +kernel

theorem test_modsqrt_deterministic :
    nextIs (exec (.modsqrt 2 0 1) (withRegs [(0, 2), (1, 23)])) (ends .none [(2, 18)]) ∧
    nextIs (exec (.modsqrt 2 0 1) (withRegs [(0, 10), (1, 13)])) (ends .none [(2, 7)]) ∧
    nextIs (exec (.modsqrt 2 0 1) (withRegs [(0, 4), (1, 13)])) (ends .none [(2, 11)]) ∧
    nextIs (exec (.modsqrt 2 0 1) (withRegs [(0, 0), (1, 13)])) (ends .noSqrt [(2, 0)]) := by decide +kernel

theorem test_modsqrt_draws :
    nextIs (exec (.modsqrt 2 0 1) (withDraws 64 [0, 1] (withRegs [(0, 2), (1, 17)])))
      (fun t => ends .none [(2, 6)] t && t.sqrtIterUsed == 2#16) ∧
    nextIs (exec (.modsqrt 2 0 1) (withDraws 3 [0, 2, 3] (withRegs [(0, 2), (1, 17)])))
      (fun t => ends .sqrtIter [(2, 0)] t && t.sqrtIterUsed == 3#16) := by decide +kernel

/-- Lucas(5, 2, 9, 17) = (8, 12) and Lucas(4, 3, 9, 17) = (15, 15) (95_test_vectors.md §2.1). -/
theorem test_lucas : lucas 5 2 9 17 = (8, 12) ∧ lucas 4 3 9 17 = (15, 15) := by decide +kernel

/-! ## The curve (41_ecc.md, examples) -/

theorem test_curveset : nextIs (exec (.curveset 0 1 2) (withRegs [(0, 17), (1, 2), (2, 2)]))
      (fun t => t.errcode == .none && t.curveValid && t.curveP == 17#256 && t.curveA == 2#256 && t.curveB == 2#256) ∧
    nextIs (exec (.curveset 0 1 2) (onE 17 2 2 [(0, 23), (1, 20), (2, 2)]))
      (fun t => t.errcode == .singular && t.curveValid && t.curveP == 17#256) := by decide +kernel

theorem test_padd : nextIs (exec (.padd 4 0 2) (onE 17 2 2 [(0, 5), (1, 1), (2, 6), (3, 3)])) (ends .none [(4, 10), (5, 6)]) ∧
    nextIs (exec (.padd 0 0 2) (onE 17 2 2 [(0, 5), (1, 1), (2, 5), (3, 16)])) (ends .none [(0, 6), (1, 3)]) := by
  decide +kernel

theorem test_padd_unreduced :
    nextIs (exec (.padd 4 0 2) (onE 23 1 1 [(0, 3), (1, 10), (2, 26), (3, 10)])) (ends .none [(4, 17), (5, 13)]) := by
  decide +kernel

theorem test_pdbl : nextIs (exec (.pdbl 2 0) (onE 17 2 2 [(0, 5), (1, 1)])) (ends .none [(2, 6), (3, 3)]) ∧
    nextIs (exec (.pdbl 2 0) (onE 23 1 1 [(0, 4), (1, 0)])) (ends .none [(2, 15), (3, 0)]) := by decide +kernel

theorem test_pmul : nextIs (exec (.pmul 4 0 6) (onE 17 2 2 [(0, 5), (1, 1), (6, 7)])) (ends .none [(4, 0), (5, 6)]) ∧
    nextIs (exec (.pmul 4 0 6) (withRegs [(4, 9)])) (ends .noCurve [(4, 9)]) := by decide +kernel

/-- MODULUS on a curve with p = 2, and NO_SQRT at x = 2 on E23 (R107). -/
theorem test_yfromx_errors : nextIs (exec (.yfromx 2 0) { onE 2 0 1 [(2, 9)] with sqrtIterUsed := 9#16 })
      (fun t => ends .modulus [(2, 9)] t && t.sqrtIterUsed == 0#16) ∧
    nextIs (exec (.yfromx 2 0) (onE 23 1 1 [(0, 2), (2, 9)])) (ends .noSqrt [(2, 9)]) := by decide +kernel

theorem test_yfromx : nextIs (exec (.yfromx 2 0) (onE 23 1 1 [(0, 3)])) (ends .none [(2, 13)]) ∧
    nextIs (exec (.yfromx 2 0) { withRegs [(0, 3)] with sqrtIterUsed := 9#16 })
      (fun t => ends .noCurve [] t && t.sqrtIterUsed == 0#16) := by decide +kernel

/-! ## Codecs (42_codecs.md, examples) -/

theorem test_i2b : nextIs (exec (.i2b 0) (withRegs [(0, 256)])) (outputs (bytes [1, 0])) ∧
    nextIs (exec (.i2b 0) { withRegs [(0, 256)] with dstAddr := 4095#32 })
      (fun t => t.errcode == .bounds && t.bmem == []) := by decide +kernel

theorem test_b2i : nextIs (exec (.b2i 5) (withInput 0 0 (bytes [1, 0]))) (ends .none [(5, 256)]) ∧
    nextIs (exec (.b2i 5) (withInput 0 0 (bytes (1 :: List.replicate 32 0)))) (ends .width [(5, 0)]) := by decide +kernel

theorem test_a85e : nextIs (exec .a85e (withInput 0 0 (bytes [0x61, 0x62, 0x63])))
      (outputs (bytes [0x40, 0x3A, 0x45, 0x5E, 0x49])) ∧
    nextIs (exec .a85e (withInput 0 0 (bytes [0, 0, 0, 0])))
      (outputs (bytes [0x21, 0x21, 0x21, 0x21, 0x21, 0x22, 0x39, 0x5C, 0x69, 0x31])) := by decide +kernel

theorem test_a85d : nextIs (exec .a85d (withInput 8 0 (bytes [0x40, 0x3A, 0x45, 0x5E, 0x49])))
      (outputs (bytes [0x61, 0x62, 0x63])) ∧
    nextIs (exec .a85d (withInput 8 0 (bytes [0x75, 0x75, 0x75, 0x75, 0x75]))) (ends .encoding []) := by decide +kernel

theorem test_legal_alphabet : legalAlphabet someLegalAlphabet = true ∧ legalAlphabet ascii85Sequence = false ∧
    legalAlphabet rfc1924Sequence = false ∧ rfc1924Sequence.length = 85 := by decide +kernel

/-- B85E of the empty input: the five symbols of 0x04040404, whatever the alphabet is (R127). -/
theorem test_b85e : exec .b85e (withInput 0 0 []) =
    .next (stored (withInput 0 0 []) [symSafe 1, symSafe 24, symSafe 59, symSafe 72, symSafe 16]) := by rfl

/-- B85D of a text whose length is no multiple of 5 (R128). -/
theorem test_b85d : nextIs (exec .b85d (withInput 0 0 (bytes [0x41, 0x42]))) (ends .encoding []) := by decide +kernel

theorem test_u8e : nextIs (exec .u8e (withInput 0 16 (bytes [0, 0, 0, 0x41, 0, 0, 0x20, 0xAC])))
      (outputs (bytes [0x41, 0xE2, 0x82, 0xAC])) ∧
    nextIs (exec .u8e (withInput 0 16 (bytes [0, 0x11, 0, 0]))) (ends .encoding []) := by decide +kernel

theorem test_u8d : nextIs (exec .u8d (withInput 16 32 (bytes [0x41, 0xE2, 0x82, 0xAC])))
      (outputs (bytes [0, 0, 0, 0x41, 0, 0, 0x20, 0xAC])) ∧
    nextIs (exec .u8d (withInput 16 32 (bytes [0xC0, 0x80]))) (ends .encoding []) := by decide +kernel

/-! ## Witnesses: for each statement with hypotheses, a state and operands that meet all of them together -/

theorem witness_DecodeOfEncodeIsTheCommand : (Instr.pmul 14 0 15).wellFormed = true := by decide

theorem witness_EncodeOfDecodeIsTheWord : decode 0x00F5FC13#32 = .error .nonzeroField ∧
    decode 0x000FEC13#32 = .ok (.pmul 12 14 15) := by decide

theorem witness_DecodingFollowsTheOpcodeTable :
    opcField 0x00000000#32 ∉ opcodes ∧ opcField 0x00000042#32 ∉ opcodes ∧
    opcField 0x00F10111#32 = Opcode.code .padd ∧ 0x00F10111#32 &&& Opcode.mask .padd ≠ Opcode.matchWord .padd ∧
    zeroFieldsOk .padd 0x00F10111#32 = false ∧
    zeroFieldsOk .padd 0x00010111#32 = true ∧ pointFieldsOk .padd 0x00010111#32 = false ∧
    (running 0x000ECA11#32 State.reset).phase = .busy ∧ (running 0x000ECA11#32 State.reset).agenda = [] ∧
    (running 0x000ECA11#32 State.reset).cmd &&& Opcode.mask .padd = Opcode.matchWord .padd := by decide

theorem witness_IllegalOpcodeIsAcceptedAndCompletes :
    (withEvents [.write .word 0x000C#13 0x00000004#32, .engine] State.reset).phase = .idle ∧
    (withEvents [.write .word 0x000C#13 0x00000004#32, .engine] State.reset).agenda =
      .write .word 0x000C#13 0x00000004#32 :: .engine :: [] ∧
    opcField 0x00000004#32 ∉ opcodes := by decide

/-- Each of the nine ways a field can be bad. -/
theorem witness_BadFieldsAreOperandErrors :
    (running 0x01000001#32 State.reset).phase = .busy ∧ (running 0x01000001#32 State.reset).agenda = [] ∧
    opcField 0x01000001#32 = Opcode.code .modexp ∧ rsvField 0x01000001#32 ≠ 0#8 ∧
    ((Opcode.uses .i2b).rd = .unused ∧ rdField 0x00000120#32 ≠ 0) ∧
    ((Opcode.uses .b2i).rs1 = .unused ∧ rs1Field 0x00001021#32 ≠ 0) ∧
    ((Opcode.uses .yfromx).rs2 = .unused ∧ rs2Field 0x00010014#32 ≠ 0) ∧
    ((Opcode.uses .modsqrt).rs3 = .unused ∧ rs3Field 0x00100003#32 ≠ 0) ∧
    ((Opcode.uses .padd).rd = .point ∧ (rdField 0x00000F11#32).val % 2 = 1) ∧
    ((Opcode.uses .pdbl).rs1 = .point ∧ (rs1Field 0x00001012#32).val % 2 = 1) ∧
    ((Opcode.uses .padd).rs2 = .point ∧ (rs2Field 0x00010011#32).val % 2 = 1) := by decide

theorem witness_StepRunsTheDecodedCommand :
    (running 0x00000041#32 State.reset).phase = .busy ∧ decode (running 0x00000041#32 State.reset).cmd = .ok .u8d ∧
    (running 0x00000041#32 State.reset).agenda = [] ∧
    (withEvents [.engine, .powerOn] (running 0x00000041#32 State.reset)).agenda = .engine :: [.powerOn] ∧
    State.reset.phase = .idle ∧ State.reset.agenda = [] := by decide

theorem witness_RunningCommandIsCompletedAtLast :
    ∃ t, Host.Core.run Sys2Proof.core ((running 0x00000041#32 State.reset).agenda.length + 1)
      (running 0x00000041#32 State.reset) = .next t := ⟨_, rfl⟩

/-- A BUSY state on a curve that meets the invariant and takes a step. -/
theorem witness_StepKeepsTheInvariant :
    (running 0x00000214#32 (onE 23 1 1 [(0, 3)])).Inv ∧
    ∃ t, step (running 0x00000214#32 (onE 23 1 1 [(0, 3)])) = .next t ∧ (t.num 2 == 13) = true := by
  refine ⟨⟨⟨List.Pairwise.nil, by intro c h; cases h⟩, ⟨fun _ => by decide +kernel, fun h => ?_⟩, fun _ => ⟨rfl, rfl⟩,
    by decide +kernel⟩, exists_of_nextIs (by decide +kernel)⟩
  cases h

theorem witness_CompletionEndsTheCommand : ∃ t, exec (.i2b 0) State.reset = .next t := ⟨_, rfl⟩

theorem witness_FailingCommandCommitsNothing :
    (∃ t, completion (running 0x00000401#32 State.reset) = .next t ∧ (t.errcode == .modulus) = true) ∧
    opcField (running 0x00000401#32 State.reset).cmd ≠ 0x03#8 ∧
    opcField (running 0x00000401#32 State.reset).cmd ≠ 0x14#8 ∧
    (∃ t, completion (running 0x00100203#32 State.reset) = .next t ∧ (t.errcode == .operand) = true) ∧
    opcField (running 0x00100203#32 State.reset).cmd = 0x03#8 :=
  ⟨exists_of_nextIs (by decide +kernel), by decide, by decide, exists_of_nextIs (by decide +kernel), by decide⟩

theorem witness_CurveChangesOnlyByCurvesetOrReset :
    (∃ t, step (running 0x00210010#32 (withRegs [(0, 17), (1, 2), (2, 2)])) = .next t ∧ t.curveValid = true) ∧
    ∃ t, step (withEvents [.write .word 0x0004#13 1#32] (onE 17 2 2 [])) = .next t ∧ (!t.curveValid) = true :=
  ⟨exists_of_nextIs (by decide +kernel), exists_of_nextIs (by decide +kernel)⟩

/-- One byte at the last address of BMEM. -/
theorem witness_OnlyTheOutputRangeOfBmemChanges :
    (∃ t, exec (.i2b 0) { State.reset with dstAddr := 4095#32 } = .next t ∧ (t.errcode == .none) = true) ∧
    (∃ t, exec (.i2b 0) { State.reset with dstAddr := 4096#32 } = .next t ∧ (t.errcode == .bounds) = true) ∧
    writesBmem (.i2b 0) = true ∧ writesBmem (.b2i 0) = false :=
  ⟨exists_of_nextIs (by decide +kernel), exists_of_nextIs (by decide +kernel), rfl, rfl⟩

theorem witness_RegistersOutsideTheDestinationKeepTheirValue :
    (∃ t, exec (.modinv 2 0 1) (withRegs [(0, 3), (1, 17)]) = .next t ∧ (t.num 2 == 6) = true) ∧
    (3 : BReg) ∉ destRegs (.modinv 2 0 1) :=
  ⟨exists_of_nextIs (by decide +kernel), by decide⟩

theorem witness_AttemptCountIsTheNumberOfDraws :
    (∃ t, exec (.modsqrt 2 0 1) (withDraws 1 [2] (withRegs [(0, 3), (1, 17)])) = .next t ∧
      (t.sqrtIterUsed == 1#16) = true) ∧ takesRoot (.modsqrt 2 0 1) = true ∧ takesRoot (.i2b 0) = false :=
  ⟨exists_of_nextIs (by decide +kernel), rfl, rfl⟩

/-- An unwritten byte at the last address of BMEM stops B85E, after a written one. -/
theorem witness_CommandsStopOnlyOnUnwrittenInput :
    exec .b85e { State.reset with srcAddr := 4095#32, srcLen := 1#32 } = .fault (.unwrittenByte 4095) ∧
    readsBmem .b85e = true ∧
    ({ withInput 4094 0 (bytes [7]) with srcLen := 2#32 } : State).srcAddr.toNat + 2 = 4096 ∧
    ({ withInput 4094 0 (bytes [7]) with srcLen := 2#32 } : State).bmem.readByte 4095 = none ∧
    ({ withInput 4094 0 (bytes [7]) with srcLen := 2#32 } : State).bmem.readByte 4094 ≠ none :=
  ⟨rfl, by decide⟩

theorem witness_CanonicalMemoryIsDeterminedByItsBytes : Memory.wf [(0, 1#8), (4095, 2#8)] := by decide

theorem witness_ModPowIsThePowerWithReducedExponent : 2 ≤ 2 ∧ modPow (-3) 5 2 = 1 ∧ modPow (-3) 2 17 = 9 := by
  decide +kernel

theorem witness_ModexpResult : 2 ≤ (withRegs [(2, 2)]).num 2 ∧ (withRegs [(2, 1)]).num 2 < 2 := by decide +kernel

theorem witness_ModinvResult : 2 ≤ (withRegs [(1, 2)]).num 1 ∧ (withRegs [(1, 1)]).num 1 < 2 := by decide +kernel

theorem witness_ModinvInvertsModuloPrimes :
    ((withRegs [(0, 5), (1, 2)]).num 1).Prime ∧ ¬ (withRegs [(0, 5), (1, 2)]).num 1 ∣ (withRegs [(0, 5), (1, 2)]).num 0 :=
  ⟨Nat.prime_two, by decide +kernel⟩

theorem witness_LucasProcedureComputesTheSequence : Nat.Prime 17 ∧ 17 ≠ 2 ∧ 1 ≤ 1 ∧ lucas 4 2 9 17 = (1, 4) := by
  refine ⟨by norm_num, by decide, by decide, by decide +kernel⟩

/-- Each branch of R84 to R86 at its least modulus or a listed vector. -/
theorem witness_DeterministicRootsFollowTheirFormulas :
    ((2 < 3 ∨ 2 % 2 = 0) ∧ (withRegs [(0, 2), (1, 2)]).num 1 = 2) ∧
    (3 % 4 = 3 ∧ (1 ^ ((3 + 1) / 4) % 3) ^ 2 % 3 = 1 % 3 ∧ (withRegs [(0, 1), (1, 3)]).num 1 = 3) ∧
    (3 % 4 = 3 ∧ (2 ^ ((3 + 1) / 4) % 3) ^ 2 % 3 ≠ 2 % 3 ∧ (withRegs [(0, 2), (1, 3)]).num 0 = 2) ∧
    (5 % 8 = 5 ∧ 1 ^ (2 * ((5 - 5) / 8) + 1) % 5 = 1 ∧ (withRegs [(0, 1), (1, 5)]).num 1 = 5) ∧
    (5 % 8 = 5 ∧ 4 ^ (2 * ((5 - 5) / 8) + 1) % 5 = 5 - 1 ∧ (withRegs [(0, 4), (1, 5)]).num 0 = 4) ∧
    (5 % 8 = 5 ∧ 2 ^ (2 * ((5 - 5) / 8) + 1) % 5 ≠ 1 ∧ 2 ^ (2 * ((5 - 5) / 8) + 1) % 5 ≠ 5 - 1 ∧
      (withRegs [(0, 2), (1, 5)]).num 0 = 2) := by decide +kernel

/-- The draws of 95_test_vectors.md §2.1 for p = 17: 0 retries for g = 2 and 1 succeeds; 2 detects the non-residue 3;
with SQRT_ITER_MAX = 3 the draws 0, 2, 3 are used up. -/
theorem witness_ProbabilisticRootFollowsTheDraws :
    3 ≤ 17 ∧ 17 % 8 = 1 ∧
    ((withDraws 2 [0, 1] (withRegs [(0, 2), (1, 17)])).num 0 = 2 ∧
      (withDraws 2 [0, 1] (withRegs [(0, 2), (1, 17)])).num 1 = 17 ∧
      (withDraws 2 [0, 1] (withRegs [(0, 2), (1, 17)])).entropy.supply = [0] ++ 1 :: [] ∧ [0].length < 2 ∧
      (∀ x ∈ [0], (lucas (x % 17) 2 9 17).2 ^ 2 % 17 ≠ 4 * 2 % 17 ∧
        ((lucas (x % 17) 2 9 17).1 = 1 ∨ (lucas (x % 17) 2 9 17).1 = 17 - 1)) ∧
      (lucas (1 % 17) 2 9 17).2 ^ 2 % 17 = 4 * 2 % 17) ∧
    ((withDraws 1 [2] (withRegs [(0, 3), (1, 17)])).entropy.supply = [] ++ 2 :: [] ∧
      (lucas (2 % 17) 3 9 17).2 ^ 2 % 17 ≠ 4 * 3 % 17 ∧ (lucas (2 % 17) 3 9 17).1 ≠ 1 ∧
      (lucas (2 % 17) 3 9 17).1 ≠ 17 - 1) ∧
    ((withDraws 3 [0, 2, 3] (withRegs [(0, 2), (1, 17)])).entropy.supply = [0, 2, 3] ++ [] ∧
      [0, 2, 3].length = (withDraws 3 [0, 2, 3] (withRegs [(0, 2), (1, 17)])).sqrtIterMax.toNat ∧
      ∀ x ∈ [0, 2, 3], (lucas (x % 17) 2 9 17).2 ^ 2 % 17 ≠ 4 * 2 % 17 ∧
        ((lucas (x % 17) 2 9 17).1 = 1 ∨ (lucas (x % 17) 2 9 17).1 = 17 - 1)) := by decide +kernel

theorem witness_RootsAreSquareRootsModuloPrimes :
    ((withDraws 1 [1] (withRegs [(0, 2), (1, 17)])).num 1).Prime ∧
    (withDraws 1 [1] (withRegs [(0, 2), (1, 17)])).num 1 ≠ 2 ∧
    ∃ t, exec (.modsqrt 2 0 1) (withDraws 1 [1] (withRegs [(0, 2), (1, 17)])) = .next t ∧
      (t.errcode == .none) = true := by
  refine ⟨?_, by decide +kernel, exists_of_nextIs (by decide +kernel)⟩
  rw [show (withDraws 1 [1] (withRegs [(0, 2), (1, 17)])).num 1 = 17 by decide +kernel]
  norm_num

theorem witness_DeterministicBranchesDecideResidues :
    (withRegs [(0, 4), (1, 5)]).num 0 = 4 ∧ (withRegs [(0, 4), (1, 5)]).num 1 = 5 ∧ Nat.Prime 5 ∧ 5 % 8 = 5 ∧
    4 % 5 ≠ 0 ∧ (∃ x, x ^ 2 % 5 = 4 % 5) ∧ Nat.Prime 3 ∧ 3 % 4 = 3 ∧ ¬ ∃ x, x ^ 2 % 3 = 2 % 3 := by
  refine ⟨by decide +kernel, by decide +kernel, by norm_num, by decide, by decide, ⟨2, by decide⟩, by norm_num,
    by decide, ?_⟩
  rintro ⟨x, h⟩
  have : x % 3 = 0 ∨ x % 3 = 1 ∨ x % 3 = 2 := by omega
  rw [Nat.pow_mod] at h
  rcases this with h' | h' | h' <;> rw [h'] at h <;> simp at h

theorem witness_CurvesetChecksAndLoadsTheCurve :
    (2 ≤ (withRegs [(0, 2), (1, 0), (2, 1)]).num 0 ∧ (4 * 0 ^ 3 + 27 * 1 ^ 2) % 2 ≠ 0) ∧
    (withRegs [(0, 1)]).num 0 < 2 ∧
    (2 ≤ (withRegs [(0, 23), (1, 20), (2, 2)]).num 0 ∧ (4 * 20 ^ 3 + 27 * 2 ^ 2) % 23 = 0) := by decide +kernel

/-- A curve, and well-formed point commands on it. -/
theorem witness_PointResults :
    (Instr.padd 14 0 14).wellFormed = true ∧ (Instr.pdbl 0 0).wellFormed = true ∧
    (Instr.pmul 4 0 1).wellFormed = true ∧ (onE 17 2 2 [(0, 5), (1, 1)]).curveValid = true ∧
    (onE 17 2 2 [(0, 5), (1, 1)]).curveOk ∧ (onE 17 2 2 [(0, 5), (1, 1)]).curveP.toNat = 17 := by
  refine ⟨by decide, by decide, by decide, rfl, ⟨fun _ => by decide +kernel, fun h => ?_⟩, by decide +kernel⟩
  cases h

theorem witness_PmulCornerScalars :
    (Instr.pmul 4 0 6).wellFormed = true ∧ (onE 17 2 2 [(6, 0)]).curveValid = true ∧
    (onE 17 2 2 [(6, 0)]).num 6 = 0 ∧ (onE 17 2 2 [(0, 40), (1, 50), (6, 1)]).num 6 = 1 ∧
    (onE 17 2 2 [(6, 9)]).num 0 = 0 ∧ (onE 17 2 2 [(6, 9)]).num (0 + 1) = 0 := by decide +kernel

theorem witness_SameXIsAddedAsADoubling :
    (Instr.padd 4 0 2).wellFormed = true ∧
    (onE 17 2 2 [(0, 5), (1, 1), (2, 5), (3, 16)]).num 0 = (onE 17 2 2 [(0, 5), (1, 1), (2, 5), (3, 16)]).num 2 ∧
    ((onE 17 2 2 [(0, 5), (1, 1), (2, 5), (3, 16)]).num 0, (onE 17 2 2 [(0, 5), (1, 1), (2, 5), (3, 16)]).num (0 + 1)) ≠
      (0, 0) ∧
    ((onE 17 2 2 [(0, 5), (1, 1), (2, 5), (3, 16)]).num 2, (onE 17 2 2 [(0, 5), (1, 1), (2, 5), (3, 16)]).num (2 + 1)) ≠
      (0, 0) := by decide +kernel

theorem witness_SumsStayOnTheCurve :
    (Instr.padd 4 0 2).wellFormed = true ∧ (onE 23 1 1 [(0, 3), (1, 10), (2, 9), (3, 7)]).curveValid = true ∧
    Nat.Prime 23 ∧ 23 ≠ 2 ∧ onCurve (3, 10) 1 1 23 ∧ onCurve (9, 7) 1 1 23 ∧ 3 ≠ 9 ∧ (10 = 10 ∧ 10 ≠ 0) ∧
    (onE 23 1 1 [(0, 3), (1, 10), (2, 9), (3, 7)]).num (2 + 1) = 7 := by
  refine ⟨by decide, rfl, by norm_num, by decide, ?_, ?_, by decide, by decide, by decide +kernel⟩ <;>
    unfold onCurve <;> decide

/-- The right-hand side of R107 for the x in B0. -/
def rhs (s : State) : Nat := (s.num 0 ^ 3 + s.curveA.toNat * s.num 0 + s.curveB.toNat) % s.curveP.toNat

/-- Each branch of YFROMX: registers holding g = 8 and p = 23; the curve's p = 2; p = 3 and E23 with no ordinate at
x = 2; p = 5 with g = 1, 4 and 0; and E17 with g = 1 at x = 5 and a non-residue at x = 1, with the draws of
95_test_vectors.md §2.1. -/
theorem witness_YfromxIsModsqrtOfTheRightHandSide :
    ((onE 23 1 1 [(0, 3), (5, 8), (6, 23)]).curveValid = true ∧ rhs (onE 23 1 1 [(0, 3), (5, 8), (6, 23)]) = 8 ∧
      (onE 23 1 1 [(0, 3), (5, 8), (6, 23)]).num 5 = 8 ∧ (onE 23 1 1 [(0, 3), (5, 8), (6, 23)]).num 6 = 23) ∧
    ((2 < 3 ∨ 2 % 2 = 0) ∧ (onE 2 0 1 []).curveValid = true ∧ (onE 2 0 1 []).curveP.toNat = 2) ∧
    (3 % 4 = 3 ∧ rhs (onE 3 1 0 [(0, 0)]) = 0 ∧ (0 ^ ((3 + 1) / 4) % 3) ^ 2 % 3 = 0) ∧
    (23 % 4 = 3 ∧ rhs (onE 23 1 1 [(0, 2)]) = 11 ∧ (11 ^ ((23 + 1) / 4) % 23) ^ 2 % 23 ≠ 11) ∧
    (5 % 8 = 5 ∧ rhs (onE 5 1 1 [(0, 0)]) = 1 ∧ 1 ^ (2 * ((5 - 5) / 8) + 1) % 5 = 1) ∧
    (5 % 8 = 5 ∧ rhs (onE 5 1 4 [(0, 0)]) = 4 ∧ 4 ^ (2 * ((5 - 5) / 8) + 1) % 5 = 5 - 1) ∧
    (5 % 8 = 5 ∧ rhs (onE 5 1 0 [(0, 0)]) = 0 ∧ 0 ^ (2 * ((5 - 5) / 8) + 1) % 5 ≠ 1 ∧
      0 ^ (2 * ((5 - 5) / 8) + 1) % 5 ≠ 5 - 1) ∧
    (3 ≤ 17 ∧ 17 % 8 = 1 ∧ rhs (withDraws 2 [0, 1] (onE 17 2 2 [(0, 5)])) = 1 ∧
      (withDraws 2 [0, 1] (onE 17 2 2 [(0, 5)])).entropy.supply = [0] ++ 1 :: [] ∧ [0].length < 2 ∧
      (∀ x ∈ [0], (lucas (x % 17) 1 9 17).2 ^ 2 % 17 ≠ 4 * 1 % 17 ∧
        ((lucas (x % 17) 1 9 17).1 = 1 ∨ (lucas (x % 17) 1 9 17).1 = 17 - 1)) ∧
      (lucas (1 % 17) 1 9 17).2 ^ 2 % 17 = 4 * 1 % 17) ∧
    (rhs (withDraws 1 [2] (onE 17 2 2 [(0, 1)])) = 5 ∧
      (withDraws 1 [2] (onE 17 2 2 [(0, 1)])).entropy.supply = [] ++ 2 :: [] ∧
      (lucas (2 % 17) 5 9 17).2 ^ 2 % 17 ≠ 4 * 5 % 17 ∧ (lucas (2 % 17) 5 9 17).1 ≠ 1 ∧
      (lucas (2 % 17) 5 9 17).1 ≠ 17 - 1) ∧
    ((withDraws 1 [0] (onE 17 2 2 [(0, 5)])).entropy.supply = [0] ++ [] ∧
      [0].length = (withDraws 1 [0] (onE 17 2 2 [(0, 5)])).sqrtIterMax.toNat) := by decide +kernel

theorem witness_YfromxFindsTheOrdinate :
    (onE 23 1 1 [(0, 3)]).curveValid = true ∧ Nat.Prime 23 ∧ 23 % 4 = 3 ∧ 10 ≠ 0 ∧ 10 < 23 ∧
    10 ^ 2 % 23 = ((onE 23 1 1 [(0, 3)]).num 0 ^ 3 + 1 * (onE 23 1 1 [(0, 3)]).num 0 + 1) % 23 ∧
    Nat.Prime 13 ∧ 13 % 8 = 5 ∧ 4 ^ 2 % 13 = ((onE 13 1 1 [(0, 1)]).num 0 ^ 3 + 1 * (onE 13 1 1 [(0, 1)]).num 0 + 1) % 13 := by
  refine ⟨rfl, by norm_num, by decide, by decide, by decide, by decide +kernel, by norm_num, by decide, by decide +kernel⟩

theorem witness_CurveCommandsNeedACurve : State.reset.curveValid = false ∧ (Instr.padd 0 2 4).wellFormed = true ∧
    (Instr.pdbl 0 2).wellFormed = true ∧ (Instr.pmul 0 2 5).wellFormed = true := by decide

/-- B0 = 256 fits at 4094 and does not at 4095. -/
theorem witness_I2bResult : 4094 + (intToBytes 256).length ≤ 4096 ∧ 4096 < 4095 + (intToBytes 256).length := by decide +kernel

/-- The largest value that fits 256 bits, behind a zero byte, and the least one that does not. -/
theorem witness_B2iResult :
    Input (withInput 4063 0 (bytes (0 :: List.replicate 32 255))) (bytes (0 :: List.replicate 32 255)) ∧
    be (bytes (0 :: List.replicate 32 255)) < 2 ^ 256 ∧
    Input (withInput 0 0 (bytes (1 :: List.replicate 32 0))) (bytes (1 :: List.replicate 32 0)) ∧
    2 ^ 256 ≤ be (bytes (1 :: List.replicate 32 0)) := by
  unfold Input
  decide +kernel

theorem witness_B2iRecoversWhatI2bWrote :
    ∃ t, exec (.i2b 0) (withRegs [(0, 2 ^ 256 - 1)]) = .next t ∧ (t.errcode == .none) = true :=
  exists_of_nextIs (by decide +kernel)

/-- The empty input at the end of BMEM; its text fits at 4091 and not at 4092. -/
theorem witness_Base85EncodeResult :
    Input (withInput 4096 4091 []) [] ∧ Input (withInput 0 4092 []) [] ∧ 4091 + 5 ≤ 4096 ∧ 4096 < 4092 + 5 := by
  unfold Input
  decide +kernel

/-- The text of the empty sequence, `[1, 24, 59, 72, 16]` in symbols, is a text of R123 in any alphabet. -/
theorem decodes_padding_word (sym : Nat → Byte) : Decodes85 sym [sym 1, sym 24, sym 59, sym 72, sym 16] [] := by
  refine ⟨bytes [4, 4, 4, 4], by simp, by simp [bytes], fun q hq => ?_, 4, by decide, by decide, by decide⟩
  have hq0 : q = 0 := by simp at hq; omega
  subst hq0
  refine ⟨![1, 24, 59, 72, 16], fun j => ?_, by decide +kernel⟩
  fin_cases j <;> rfl

/-- A one-byte text is no text of R123. -/
theorem not_decodes_one (sym : Nat → Byte) (c : Byte) : ¬ ∃ out, Decodes85 sym [c] out := by
  rintro ⟨out, t, _, h, _⟩
  simp at h
  omega

/-- The empty output fits at 4096 and not at 4097, in both variants; a one-byte text is no text. -/
theorem witness_Base85DecodeResult :
    (∃ text, Input (withInput 0 4096 text) text ∧ Decodes85 symSafe text [] ∧
      (withInput 0 4096 text).dstAddr.toNat + ([] : List Byte).length ≤ 4096) ∧
    (∃ text, Input (withInput 0 4097 text) text ∧ Decodes85 symSafe text [] ∧
      4096 < (withInput 0 4097 text).dstAddr.toNat + ([] : List Byte).length) ∧
    (∃ text, Input (withInput 0 4096 text) text ∧ Decodes85 ascii85 text [] ∧
      (withInput 0 4096 text).dstAddr.toNat + ([] : List Byte).length ≤ 4096) ∧
    (∃ text, Input (withInput 0 4097 text) text ∧ Decodes85 ascii85 text [] ∧
      4096 < (withInput 0 4097 text).dstAddr.toNat + ([] : List Byte).length) ∧
    Input (withInput 4095 0 (bytes [0x21])) (bytes [0x21]) ∧ (¬ ∃ out, Decodes85 symSafe (bytes [0x21]) out) ∧
    ¬ ∃ out, Decodes85 ascii85 (bytes [0x21]) out := by
  have hi : ∀ (n : Nat) (a b c d e : Byte), Input (withInput 0 n [a, b, c, d, e]) [a, b, c, d, e] := by
    intro n a b c d e
    refine ⟨by simp [withInput], rfl, fun i hi => ?_⟩
    have hi' : i < 5 := hi
    interval_cases i <;> rfl
  refine ⟨⟨_, hi _ _ _ _ _ _, decodes_padding_word _, by simp [withInput]⟩,
    ⟨_, hi _ _ _ _ _ _, decodes_padding_word _, by simp [withInput]⟩,
    ⟨_, hi _ _ _ _ _ _, decodes_padding_word _, by simp [withInput]⟩,
    ⟨_, hi _ _ _ _ _ _, decodes_padding_word _, by simp [withInput]⟩, ?_, not_decodes_one _ _, not_decodes_one _ _⟩
  unfold Input
  decide +kernel

/-- "abc" and its text `@:E^I`, decoded to the last place it fits. -/
theorem witness_Base85DecodeRecoversTheBytes :
    Input (withInput 0 4093 (bytes [0x40, 0x3A, 0x45, 0x5E, 0x49])) (bytes [0x40, 0x3A, 0x45, 0x5E, 0x49]) ∧
    4093 + (bytes [0x61, 0x62, 0x63]).length ≤ 4096 ∧
    Encodes85 ascii85 (bytes [0x61, 0x62, 0x63]) (bytes [0x40, 0x3A, 0x45, 0x5E, 0x49]) ∧
    Encodes85 symSafe [] [symSafe 1, symSafe 24, symSafe 59, symSafe 72, symSafe 16] := by
  refine ⟨by unfold Input; decide +kernel, by decide +kernel, ⟨rfl, fun q j hq hj => ?_⟩, ⟨rfl, fun q j hq hj => ?_⟩⟩
  · have hq0 : q = 0 := by simp [bytes] at hq; omega
    subst hq0
    interval_cases j <;> rfl
  · have hq0 : q = 0 := by simp at hq; omega
    subst hq0
    interval_cases j <;> rfl

/-- The greatest code point, a surrogate, and the least word that is no code point. -/
theorem witness_U8eResult :
    Text [0x10FFFF, 0xD800] ∧
    Input (withInput 0 4089 (bytes [0, 0x10, 0xFF, 0xFF, 0, 0, 0xD8, 0])) ([0x10FFFF, 0xD800].flatMap codePointBytes) ∧
    4089 + ([0x10FFFF, 0xD800].flatMap utf8).length ≤ 4096 ∧ 4096 < 4090 + ([0x10FFFF, 0xD800].flatMap utf8).length ∧
    Input (withInput 0 0 (bytes [0])) (bytes [0]) ∧ (bytes [0]).length % 4 ≠ 0 ∧
    Input (withInput 0 0 (bytes [0, 0x11, 0, 0])) (bytes [0, 0x11, 0, 0]) ∧ word (bytes [0, 0x11, 0, 0]) 0 > 0x10FFFF := by
  unfold Input Text
  decide +kernel

/-- A code point takes one byte with the top bit 0, or more than one byte. -/
theorem utf8_one_or_more (c : Nat) : (∃ v : BitVec 7, utf8 c = [0#1 ++ v]) ∨ 2 ≤ (utf8 c).length := by
  unfold utf8
  dsimp only
  by_cases h1 : c ≤ 0x7F
  · exact .inl ⟨_, by rw [if_pos h1]⟩
  · right
    rw [if_neg h1]
    by_cases h2 : c ≤ 0x7FF
    · rw [if_pos h2]; simp
    · rw [if_neg h2]
      by_cases h3 : c ≤ 0xFFFF
      · rw [if_pos h3]; simp
      · rw [if_neg h3]; simp

theorem top_bit (v : BitVec 7) : BitVec.ofNat 8 0x80 ≠ 0#1 ++ v := by
  revert v
  decide +kernel

theorem witness_U8dResult :
    Text [0x10FFFF, 0xD800] ∧
    Input (withInput 0 4088 (bytes [0xF4, 0x8F, 0xBF, 0xBF, 0xED, 0xA0, 0x80])) ([0x10FFFF, 0xD800].flatMap utf8) ∧
    4088 + 4 * [0x10FFFF, 0xD800].length ≤ 4096 ∧ 4096 < 4089 + 4 * [0x10FFFF, 0xD800].length ∧
    Input (withInput 0 0 (bytes [0x80])) (bytes [0x80]) ∧ ¬ ∃ cps, Text cps ∧ bytes [0x80] = cps.flatMap utf8 := by
  refine ⟨by unfold Text; decide, by unfold Input; decide +kernel, by decide, by decide,
    by unfold Input; decide +kernel, ?_⟩
  rintro ⟨cps, ht, h⟩
  cases cps with
  | nil => simp [bytes] at h
  | cons c cs =>
    rw [List.flatMap_cons] at h
    rcases utf8_one_or_more c with ⟨v, hv⟩ | hl
    · rw [hv] at h
      simp only [bytes, List.map_cons, List.cons_append, List.cons.injEq] at h
      exact top_bit v h.1
    · have h' := congrArg List.length h
      rw [List.length_append] at h'
      simp only [bytes, List.map_cons, List.map_nil, List.length_cons, List.length_nil] at h'
      omega

theorem witness_InputPastBmemIsBounds : readsBmem (.b2i 0) = true ∧
    4096 < ({ State.reset with srcAddr := 0xFFFFFFFF#32, srcLen := 1#32 } : State).srcAddr.toNat + 1 ∧
    4096 < ({ State.reset with srcLen := 4097#32 } : State).srcLen.toNat := by decide

/-- The input range overlapping the output range, and not. -/
theorem witness_OutputDoesNotDependOnOverlap :
    (∃ t, exec .a85d (withInput 0 2 (bytes [0x40, 0x3A, 0x45, 0x5E, 0x49])) = .next t ∧ (t.errcode == .none) = true) ∧
    ∃ u, exec .a85d { withInput 0 2 (bytes [0x40, 0x3A, 0x45, 0x5E, 0x49]) with dstAddr := 100#32 } = .next u ∧
      (u.errcode == .none) = true :=
  ⟨exists_of_nextIs (by decide +kernel), exists_of_nextIs (by decide +kernel)⟩

/-! ### Host accesses -/

theorem witness_ControlRegisterReads :
    (withEvents [.read .word 0x0000#13] State.reset).agenda = .read .word 0x0000#13 :: [] ∧
    ((0x0028#13).toNat % 4 = 0 ∧ 0x0028 ≤ (0x0028#13).toNat ∧ (0x0028#13).toNat < 0x0400) ∧
    ((0x03FC#13).toNat % 4 = 0 ∧ (0x03FC#13).toNat < 0x0400) ∧
    ((0x0660#13).toNat % 4 = 0 ∧ 0x0660 ≤ (0x0660#13).toNat ∧ (0x0FFC#13).toNat < 0x1000) := by decide

/-- The numbers of R136, each with DONE, as a STATUS word (95_test_vectors.md: 0x00000602 is DONE with ERRCODE 6). -/
theorem test_status_error_codes :
    [ErrCode.none, .illegalOpcode, .operand, .modulus, .noSqrt, .singular, .noCurve, .sqrtIter, .encoding, .bounds,
      .width].map (fun e => (State.reset.completed e).statusWord) =
    [0x00000002#32, 0x00000102#32, 0x00000202#32, 0x00000302#32, 0x00000402#32, 0x00000502#32, 0x00000602#32,
      0x00000702#32, 0x00000802#32, 0x00000902#32, 0x00000A02#32] := by decide

theorem witness_StatusRegisterReadsAndWrites :
    State.reset.errcode = .none ∧ (State.reset.completed .width).errcode = .width ∧
    (withEvents [.read .word 0x0008#13] State.reset).agenda = .read .word 0x0008#13 :: [] ∧
    (withEvents [.write .word 0x0008#13 0xE#32] State.reset).agenda = .write .word 0x0008#13 0xE#32 :: [] := by decide

theorem witness_BregWindowReadsAndWrites :
    BitVec.ofNat 13 (0x0400 + 32 * (15 : BReg).val + 4 * (7 : Fin 8).val) = 0x05FC#13 ∧
    (withEvents [.write .word 0x05FC#13 1#32] State.reset).agenda = .write .word 0x05FC#13 1#32 :: [] ∧
    (withEvents [.write .word 0x05FC#13 1#32] State.reset).phase = .idle ∧
    (withEvents [.read .word 0x0400#13] State.reset).agenda = .read .word 0x0400#13 :: [] := by decide

theorem witness_CurveWindowsAreReadOnly :
    BitVec.ofNat 13 (0x0640 + 4 * (7 : Fin 8).val) = 0x065C#13 ∧
    (withEvents [.read .word 0x0600#13] State.reset).agenda = .read .word 0x0600#13 :: [] ∧
    (withEvents [.write .word 0x065C#13 1#32] State.reset).agenda = .write .word 0x065C#13 1#32 :: [] := by decide

/-- The last word of the BMEM window, with four written bytes, and with its last byte unwritten. -/
theorem witness_BmemWindowReadsAndWrites :
    1023 < 1024 ∧ BitVec.ofNat 13 (0x1000 + 4 * 1023) = 0x1FFC#13 ∧
    (withEvents [.read .word 0x1FFC#13] (withInput 4092 0 (bytes [1, 2, 3, 4]))).bmem.readByte (4 * 1023) = some 1#8 ∧
    (withEvents [.read .word 0x1FFC#13] (withInput 4092 0 (bytes [1, 2, 3, 4]))).bmem.readByte (4 * 1023 + 3) = some 4#8 ∧
    (4 * 1023 ≤ 4095 ∧ 4095 < 4 * 1023 + 4 ∧
      (withEvents [.read .word 0x1FFC#13] (withInput 4092 0 (bytes [1, 2, 3]))).bmem.readByte 4095 = none ∧
      ∀ b, 4092 ≤ b → b < 4095 →
        (withEvents [.read .word 0x1FFC#13] (withInput 4092 0 (bytes [1, 2, 3]))).bmem.readByte b ≠ none) ∧
    (withEvents [.write .word 0x1FFC#13 0#32] State.reset).phase = .idle := by
  refine ⟨by decide, by decide, by decide, by decide, ⟨by decide, by decide, by decide, fun b h1 h2 => ?_⟩, by decide⟩
  interval_cases b <;> decide

theorem witness_IllFormedAccessSetsBusErr :
    (AccessSize.byte ≠ .word ∧ (withEvents [.read .byte 0x0000#13] State.reset).agenda = .read .byte 0x0000#13 :: []) ∧
    ((0x1FFF#13).toNat % 4 ≠ 0 ∧
      (withEvents [.write .word 0x1FFF#13 0#32] State.reset).agenda = .write .word 0x1FFF#13 0#32 :: []) := by decide

theorem witness_BusyWritesAreDropped :
    (withEvents [.write .word 0x1000#13 0#32] (running 0x41#32 State.reset)).phase = .busy ∧
    (0x1000#13).toNat % 4 = 0 ∧ 0x1000 ≤ (0x1000#13).toNat ∧
    (0x0400 ≤ (0x05FC#13).toNat ∧ (0x05FC#13).toNat < 0x0600) ∧
    (0x0600 ≤ (0x0600#13).toNat ∧ (0x0FFC#13).toNat < 0x1000) := by decide

theorem witness_IdleWritesTakeEffect :
    (withEvents [.write .word 0x000C#13 0x41#32] State.reset).phase = .idle ∧
    (withEvents [.write .word 0x000C#13 0x41#32] State.reset).agenda = .write .word 0x000C#13 0x41#32 :: [] ∧
    (withEvents [.write .word 0x0020#13 0xFFFFFFFF#32] State.reset).agenda =
      .write .word 0x0020#13 0xFFFFFFFF#32 :: [] := by decide

theorem witness_CtrlWritesSetIeOrResetTheEngine :
    (withEvents [.write .word 0x0004#13 3#32, .engine] (running 0x41#32 State.reset)).agenda =
      .write .word 0x0004#13 3#32 :: .engine :: [] ∧
    BitVec.getLsbD 3#32 0 = true ∧ BitVec.getLsbD 2#32 0 = false := by decide

theorem witness_PowerOnValues :
    (withEvents [.powerOn] (running 0x41#32 (withRegs [(0, 7)]))).agenda = .powerOn :: [] ∧
    ∃ t, step (withEvents [.powerOn] (running 0x41#32 (withRegs [(0, 7)]))) = .next t :=
  ⟨rfl, _, rfl⟩

theorem witness_InterruptFollowsDoneAndEnable :
    (∃ t, exec .u8d { State.reset with ie := true } = .next t ∧ t.irq = true) ∧
    (∃ t, step (withEvents [.write .word 0x0008#13 2#32] { State.reset with ie := true, done := true }) = .next t ∧
      (!t.irq) = true) ∧
    BitVec.getLsbD 2#32 1 = true ∧ (running 0x41#32 State.reset).phase = .busy :=
  ⟨exists_of_nextIs (by decide +kernel), exists_of_nextIs (by decide +kernel), by decide, rfl⟩

theorem witness_HostCannotDisturbARunningCommand :
    (withEvents [.write .word 0x000C#13 0#32] (running 0x41#32 State.reset)).phase = .busy ∧
    (∃ t, step (withEvents [.write .word 0x000C#13 0#32] (running 0x41#32 State.reset)) = .next t ∧ t.ovr = true) ∧
    ∃ t, step (withEvents [.write .word 0x0004#13 2#32] (running 0x41#32 State.reset)) = .next t ∧ t.ie = true :=
  ⟨rfl, exists_of_nextIs (by decide +kernel), exists_of_nextIs (by decide +kernel)⟩

end Sys2Proof.Tests
end

section
/-! SUPPORT. What the modular arithmetic kernel computes in the ring `ZMod m`: the floor remainder, the power and, over
a prime, the inverse (spec/00_scope.md R7; spec/40_modarith.md R81, R82). -/

namespace Sys2Proof.Machine

theorem imod_lt (x : Int) (m : Nat) (hm : 0 < m) : imod x m < m := by
  have hneg : 0 ≤ x % (m : Int) := Int.emod_nonneg x (by omega)
  have hlt : x % (m : Int) < m := Int.emod_lt_of_pos x (by omega)
  unfold imod
  omega

/-- The floor remainder is the same residue, also of a negative number (R7). -/
theorem natCast_imod (x : Int) (m : Nat) (hm : 0 < m) : (imod x m : ZMod m) = (x : ZMod m) := by
  have hpos : ((imod x m : Nat) : Int) = x % (m : Int) := Int.toNat_of_nonneg (Int.emod_nonneg x (by omega))
  calc (imod x m : ZMod m) = (((imod x m : Nat) : Int) : ZMod m) := (Int.cast_natCast _).symm
    _ = ((x % (m : Int) : Int) : ZMod m) := by rw [hpos]
    _ = (x : ZMod m) := ZMod.intCast_mod x m

/-- ModPow is the power with the reduced exponent (R81); the case e mod (m − 1) = 0 is the zeroth power. -/
theorem natCast_modPow (b : Int) (e m : Nat) (hm : 0 < m) :
    (modPow b e m : ZMod m) = (b : ZMod m) ^ (e % (m - 1)) := by
  unfold modPow
  split
  case isTrue h => simp [h]
  case isFalse =>
    have hloop := (ZMod.natCast_eq_natCast_iff _ _ _).mpr
      (modPowLoop_modEq (imod b m) (e % (m - 1)) m (bitlen (e % (m - 1))) 1)
    rw [hloop, Nat.mod_eq_of_lt (lt_two_pow_bitlen _)]
    simp [natCast_imod b m hm]

/-- Over a prime, ModInv is the inverse of every g ≢ 0, by Fermat's little theorem (R82). -/
theorem natCast_modInv (g : Int) (p : Nat) [Fact p.Prime] (hg : (g : ZMod p) ≠ 0) :
    (modInv g p : ZMod p) = (g : ZMod p)⁻¹ := by
  have hp : 2 ≤ p := Nat.Prime.two_le Fact.out
  have hexp : (p - 2) % (p - 1) = p - 2 := Nat.mod_eq_of_lt (by omega)
  have hfermat : (g : ZMod p) ^ (p - 2) * g = 1 := by
    rw [← pow_succ, show p - 2 + 1 = p - 1 by omega]
    exact ZMod.pow_card_sub_one_eq_one hg
  rw [modInv, natCast_modPow g (p - 2) p (by omega), hexp]
  exact eq_inv_of_mul_eq_one_left hfermat

end Sys2Proof.Machine
end

section
/-! SUPPORT. The curve group of R101 as Mathlib's affine Weierstrass curve over the field `ZMod p`: the points of the
model are its points, and the model's slope and third point are its slope and sum (spec/00_scope.md R16;
spec/41_ecc.md R101). -/

open Sys2Proof.Spec

namespace Sys2Proof.Machine

/-- The curve y² = x³ + ax + b over the residues mod p (R16). -/
def weierstrass (a b p : Nat) : WeierstrassCurve.Affine (ZMod p) := ⟨0, 0, 0, a, b⟩

theorem weierstrass_negY (a b p : Nat) (x y : ZMod p) : (weierstrass a b p).negY x y = -y := by
  simp [weierstrass, WeierstrassCurve.Affine.negY]

/-- A pair of residues is on the curve when it satisfies the curve's equation in `ZMod p`. -/
theorem onCurve_iff_equation (P : Nat × Nat) (a b p : Nat) :
    onCurve P a b p ↔ P.1 < p ∧ P.2 < p ∧ (weierstrass a b p).Equation P.1 P.2 := by
  have heq : (weierstrass a b p).Equation P.1 P.2 ↔ P.2 ^ 2 % p = (P.1 ^ 3 + a * P.1 + b) % p := by
    rw [WeierstrassCurve.Affine.equation_iff, ← ZMod.natCast_eq_natCast_iff']
    simp [weierstrass]
  rw [onCurve, heq]

variable (a b p : Nat) (P1 P2 : Point)

/-- The line through two points with different x, and the tangent where y is not its own negative: the slope of R101 is
the slope of the curve. The points must be reduced, since R101 compares the x of the operands as integers. -/
theorem natCast_slope [Fact p.Prime] (hx1 : P1.1 < p) (hx2 : P2.1 < p)
    (h : P1.1 ≠ P2.1 ∨ P1.2 = P2.2 ∧ (P1.2 : ZMod p) ≠ -P1.2) :
    (slope P1 P2 a p : ZMod p) = (weierstrass a b p).slope P1.1 P2.1 P1.2 P2.2 := by
  have hpos : 0 < p := by omega
  unfold slope
  split
  case isTrue hx =>
    obtain ⟨hy, hne⟩ := h.resolve_left (not_not.mpr hx)
    have hinv : ((2 * P1.2 : Int) : ZMod p) ≠ 0 := by
      push_cast
      rwa [two_mul, ← sub_neg_eq_add, sub_ne_zero]
    have hneg : (P1.2 : ZMod p) ≠ (weierstrass a b p).negY P2.1 P2.2 := by
      rwa [weierstrass_negY, ← hy]
    rw [WeierstrassCurve.Affine.slope_of_Y_ne (by rw [hx]) hneg, natCast_imod _ p hpos, Int.cast_mul,
      Int.cast_natCast, natCast_modInv _ p hinv, div_eq_mul_inv]
    congr 1
    · simp [weierstrass]; ring
    · rw [weierstrass_negY]
      push_cast
      ring
  case isFalse hx =>
    have hne : (P1.1 : ZMod p) ≠ P2.1 := (CharP.natCast_injOn_Iio (ZMod p) p).ne hx1 hx2 hx
    have hinv : (((P2.1 : Int) - P1.1 : Int) : ZMod p) ≠ 0 := by
      push_cast
      exact sub_ne_zero.mpr hne.symm
    rw [WeierstrassCurve.Affine.slope_of_X_ne hne, natCast_imod _ p hpos, Int.cast_mul,
      Int.cast_natCast, natCast_modInv _ p hinv, ← div_eq_mul_inv, ← neg_div_neg_eq]
    push_cast
    simp

/-- The third point of R101 for a slope lam is the curve's sum for that slope. -/
theorem natCast_thirdPoint (lam : Nat) (hp : 0 < p) :
    ((thirdPoint P1 P2 lam p).1 : ZMod p) = (weierstrass a b p).addX P1.1 P2.1 lam ∧
    ((thirdPoint P1 P2 lam p).2 : ZMod p) = (weierstrass a b p).addY P1.1 P2.1 P1.2 lam := by
  have hx : ((thirdPoint P1 P2 lam p).1 : ZMod p) = (weierstrass a b p).addX P1.1 P2.1 lam := by
    simp [thirdPoint, natCast_imod _ p hp, weierstrass, WeierstrassCurve.Affine.addX, pow_two]
  refine ⟨hx, ?_⟩
  have hy : ((thirdPoint P1 P2 lam p).2 : ZMod p) = lam * (P1.1 - (thirdPoint P1 P2 lam p).1) - P1.2 := by
    simp [thirdPoint, natCast_imod _ p hp]
  rw [hy, hx]
  rw [WeierstrassCurve.Affine.addY, weierstrass_negY, WeierstrassCurve.Affine.negAddY]
  ring

theorem thirdPoint_lt (lam : Nat) (hp : 0 < p) :
    (thirdPoint P1 P2 lam p).1 < p ∧ (thirdPoint P1 P2 lam p).2 < p :=
  ⟨imod_lt _ p hp, imod_lt _ p hp⟩

/-- The chord and the tangent of R101 stay on the curve, by Mathlib's addition law. -/
theorem thirdPoint_onCurve [Fact p.Prime] (hp2 : p ≠ 2) (h1 : onCurve P1 a b p) (h2 : onCurve P2 a b p)
    (h : P1.1 ≠ P2.1 ∨ P1.2 = P2.2 ∧ P1.2 ≠ 0) : onCurve (thirdPoint P1 P2 (slope P1 P2 a p) p) a b p := by
  have hp : p.Prime := Fact.out
  obtain ⟨hx1, hy1, heq1⟩ := (onCurve_iff_equation P1 a b p).mp h1
  obtain ⟨hx2, hy2, heq2⟩ := (onCurve_iff_equation P2 a b p).mp h2
  have hneg (hy : P1.2 ≠ 0) : (P1.2 : ZMod p) ≠ -P1.2 := by
    refine ZMod.ne_neg_self (hp.odd_of_ne_two hp2) ?_
    rw [← Nat.cast_zero]
    exact (CharP.natCast_injOn_Iio (ZMod p) p).ne hy1 hp.pos hy
  have hslope := natCast_slope a b p P1 P2 hx1 hx2 (h.imp_right (And.imp_right hneg))
  have hnotOpposite : ¬((P1.1 : ZMod p) = P2.1 ∧ (P1.2 : ZMod p) = (weierstrass a b p).negY P2.1 P2.2) := by
    rintro ⟨hx, hy⟩
    obtain hxne | ⟨hyeq, hy0⟩ := h
    · exact hxne (CharP.natCast_injOn_Iio (ZMod p) p hx1 hx2 hx)
    · refine hneg hy0 ?_
      rwa [weierstrass_negY, ← hyeq] at hy
  obtain ⟨hx3, hy3⟩ := thirdPoint_lt p P1 P2 (slope P1 P2 a p) hp.pos
  obtain ⟨hX, hY⟩ := natCast_thirdPoint a b p P1 P2 (slope P1 P2 a p) hp.pos
  rw [onCurve_iff_equation, hX, hY, hslope]
  exact ⟨hx3, hy3, WeierstrassCurve.Affine.equation_add heq1 heq2 hnotOpposite⟩

/-- PAdd stays on the curve: with a sentinel operand it answers the other operand, else a chord or a tangent (R101). -/
theorem pointAdd_onCurve [Fact p.Prime] (hp2 : p ≠ 2) (h1 : onCurve P1 a b p) (h2 : onCurve P2 a b p)
    (h : P1.1 ≠ P2.1 ∨ P1.2 = P2.2 ∧ P1.2 ≠ 0) : onCurve (pointAdd P1 P2 a p) a b p := by
  unfold pointAdd
  split
  · exact h2
  · split
    · exact h1
    · exact thirdPoint_onCurve a b p P1 P2 hp2 h1 h2 h

end Sys2Proof.Machine
end

section
/-! PROOFS. The commands of the curve group as states: what PADD leaves in its destination pair (spec/41_ecc.md R104). -/

open Sys2Proof Sys2Proof.Spec

namespace Sys2Proof.Machine

@[simp] theorem State.point_completed (s : State) (e : ErrCode) (j : BReg) : (s.completed e).point j = s.point j := rfl

/-- A point that fits two registers is read back from the pair it was written to (R19). -/
theorem State.point_setPoint (s : State) (j : BReg) (P : Point) (h1 : P.1 < 2 ^ 256) (h2 : P.2 < 2 ^ 256) :
    (s.setPoint j P).point j = P := by
  unfold State.point State.num
  rw [State.reg_setPoint, State.reg_setPoint, if_neg (oddOf_ne j), if_pos rfl, if_pos rfl, BitVec.toNat_ofNat,
    BitVec.toNat_ofNat, Nat.mod_eq_of_lt h1, Nat.mod_eq_of_lt h2]

/-- A well-formed PADD with a curve writes the sum of its points and completes without error (R104). -/
theorem exec_padd (rd rs1 rs2 : BReg) (s : State) (hwf : (Instr.padd rd rs1 rs2).wellFormed = true)
    (hcurve : s.curveValid = true) :
    exec (.padd rd rs1 rs2) s =
      succeed (s.setPoint rd (pointAdd (s.point rs1) (s.point rs2) s.curveA.toNat s.curveP.toNat)) := by
  rw [exec, execPadd, withPoints_even [rd, rs1, rs2] _ _ hwf, withCurve_valid _ _ hcurve]

/-- Settles O34: the sum is on the curve by Mathlib's addition law, and its coordinates, being below p, fit the
registers. -/
theorem sumsStayOnTheCurve : Obligations.SumsStayOnTheCurve := by
  rintro rd rs1 rs2 s a b p hwf hcurve rfl rfl rfl hprime hp2 h1 h2 h
  have : Fact s.curveP.toNat.Prime := ⟨hprime⟩
  have hsum := pointAdd_onCurve _ _ _ (s.point rs1) (s.point rs2) hp2 h1 h2 h
  have ⟨hx, hy, _⟩ := hsum
  have hp : s.curveP.toNat < 2 ^ 256 := s.curveP.isLt
  refine ⟨_, exec_padd rd rs1 rs2 s hwf hcurve, rfl, ?_⟩
  change onCurve (State.point _ rd) _ _ _
  rw [State.point_completed, State.point_setPoint s rd _ (hx.trans hp) (hy.trans hp)]
  exact hsum

end Sys2Proof.Machine
end

section
/-! SUPPORT. Small cases of the statements below, evaluated before they are proved: the decoder against the opcode
table, and host writes in BUSY (spec/30_encoding.md R74 to R76; spec/10_state.md R26). -/

namespace Sys2Proof.Machine

/-- A PDBL word is a command exactly when both of its point fields are even (R75). -/
example (rd rs1 : BReg) :
    (decode (packWord 0x12#8 rd rs1 0 0)).toOption =
      if rd.isPoint && rs1.isPoint then some (.pdbl rd rs1) else none := by
  revert rd rs1; decide

/-- It matches a row of the table exactly then (R76). -/
example (rd rs1 : BReg) : matchesTable (packWord 0x12#8 rd rs1 0 0) = (rd.isPoint && rs1.isPoint) := by
  revert rd rs1; decide

/-- An I2B word with a nonzero unused field is none (R74). -/
example (rd rs1 : BReg) :
    (decode (packWord 0x20#8 rd rs1 0 0)).toOption = if rd = 0 then some (.i2b rs1) else none := by
  revert rd rs1; decide

/-- In BUSY no write to the BREG window reaches its register (R26). -/
example (i : BReg) (j : Fin 8) :
    ((State.reset.issued 0#32).writeTarget
      (Target.ofOffset (BitVec.ofNat 13 (0x0400 + 32 * i.val + 4 * j.val))) 1#32).reg i = 0#256 := by
  revert i j; decide

end Sys2Proof.Machine
end

section
/-! SUPPORT. What one step can do, said once for every event: the engine's turn, a host read, a host write and power-on
(spec/10_state.md R17, R40; spec/20_memory.md R52, R59). -/

namespace Sys2Proof.Machine

/-- A step performs the next event of the agenda; an empty agenda stands for the engine's turn (R59; log 2). -/
theorem step_eq_perform (s : State) :
    step s = perform (s.agenda.headD .engine) { s with agenda := s.agenda.tail } := by
  cases h : s.agenda with
  | nil => change step s = engineTurn { s with agenda := [] }; rw [step_of_nil h, ← h]
  | cons ev rest => exact step_of_cons h

/-! ## The engine's turn (R40, R160) -/

theorem engineTurn_idle {s : State} (h : s.phase = .idle) : engineTurn s = .next s := by
  rw [engineTurn, h]

theorem engineTurn_busy {s : State} (h : s.phase = .busy) : engineTurn s = completion s := by
  rw [engineTurn, h]

theorem completion_ok {s : State} {i : Instr} (h : decode s.cmd = .ok i) : completion s = exec i s := by
  rw [completion, h]

theorem completion_error {s : State} {e : DecodeError} (h : decode s.cmd = .error e) :
    completion s = rejectCommand e s := by
  rw [completion, h]

/-- In BUSY with an empty agenda a step is the completion (log 2). -/
theorem step_busy_of_nil {s : State} (hbusy : s.phase = .busy) (hagenda : s.agenda = []) : step s = completion s := by
  rw [step_of_nil hagenda, engineTurn_busy hbusy]

/-- The engine's turn waits in IDLE; in BUSY it completes the command, or rejects a word that is none. -/
theorem engineTurn_cases {s t : State} (h : engineTurn s = .next t) :
    (s.phase = .idle ∧ t = s) ∨
    (s.phase = .busy ∧ ∃ i, decode s.cmd = .ok i ∧ exec i s = .next t) ∨
    (s.phase = .busy ∧ ∃ e, decode s.cmd = .error e ∧ rejectCommand e s = .next t) := by
  cases hphase : s.phase with
  | idle =>
    rw [engineTurn_idle hphase, Host.Outcome.next.injEq] at h
    exact .inl ⟨rfl, h.symm⟩
  | busy =>
    rw [engineTurn_busy hphase] at h
    cases hdecode : decode s.cmd with
    | ok i => exact .inr (.inl ⟨rfl, i, rfl, completion_ok hdecode ▸ h⟩)
    | error e => exact .inr (.inr ⟨rfl, e, rfl, completion_error hdecode ▸ h⟩)

/-- A word that is no command completes with its error, and at most SQRT_ITER_USED is written, with 0 (R36, C9). -/
theorem rejectCommand_eq (e : DecodeError) (s : State) :
    rejectCommand e s = .next ((s.setSqrtUsed (if countsDraws s.cmd then 0 else s.sqrtIterUsed.toNat)
      s.entropy).completed (decodeErrCode e)) := by
  rw [rejectCommand, raise]
  split
  · rfl
  · rw [State.setSqrtUsed, BitVec.ofNat_toNat, BitVec.setWidth_eq]

/-! ## Host accesses (R52) -/

/-- A host read changes at most the read data and BUSERR (R52). -/
theorem hostRead_next {size : AccessSize} {off : Offset} {s t : State} (h : hostRead size off s = .next t) :
    ∃ v b, t = { s with readData := v, buserr := b } := by
  unfold hostRead at h
  split at h
  · split at h
    · cases h
    · cases h; exact ⟨_, _, rfl⟩
  · cases h; exact ⟨_, _, rfl⟩

/-- A host write is a well-formed write of its target, or sets BUSERR alone (R52). -/
theorem hostWrite_next {size : AccessSize} {off : Offset} {v : Word} {s t : State}
    (h : hostWrite size off v s = .next t) :
    (size = .word ∧ off.toNat % 4 = 0 ∧ t = s.writeTarget (Target.ofOffset off) v) ∨ t = { s with buserr := true } := by
  unfold hostWrite at h
  split at h
  case isTrue hwf =>
    obtain ⟨hsize, halign⟩ : size = .word ∧ off.toNat % 4 = 0 := by simpa [wellFormedAccess] using hwf
    cases h
    exact .inl ⟨hsize, halign, rfl⟩
  case isFalse => cases h; exact .inr rfl

theorem State.guarded_busy {s : State} (h : s.phase = .busy) (t : State) : s.guarded t = { s with ovr := true } := by
  simp [State.guarded, State.isBusy, h]

theorem State.guarded_idle {s : State} (h : s.phase = .idle) (t : State) : s.guarded t = t := by
  simp [State.guarded, State.isBusy, h]

/-- A guarded write is dropped with OVR set, or takes effect (R26). -/
theorem State.guarded_cases (s t : State) : s.guarded t = { s with ovr := true } ∨ s.guarded t = t := by
  unfold State.guarded
  split
  · exact .inl rfl
  · exact .inr rfl

/-- A write to CTRL with SRST = 1 is the soft reset (R28). -/
theorem State.writeCtrl_srst {v : Word} (h : v.getLsbD 0 = true) (s : State) : s.writeCtrl v = s.softReset :=
  if_pos h

/-- A write to CTRL with SRST = 0 sets IE and nothing else (R28). -/
theorem State.writeCtrl_noReset {v : Word} (h : v.getLsbD 0 = false) (s : State) :
    s.writeCtrl v = { s with ie := v.getLsbD 1 } :=
  if_neg (by rw [h]; exact Bool.false_ne_true)

/-- Only the word at 0x0004 is CTRL (R24). -/
theorem Target.offset_of_ctrl {off : Offset} (h : Target.ofOffset off = .ctrl) (halign : off.toNat % 4 = 0) :
    off = 0x0004#13 := by
  have hlo : ¬ off.toNat < 0x0004 := fun hlt => by
    rw [Target.ofOffset, if_pos hlt] at h; cases h
  have hhi : off.toNat < 0x0008 := by
    by_contra hge
    unfold Target.ofOffset at h
    dsimp only at h
    iterate 2 rw [if_neg (by omega)] at h
    iterate 14 replace h := (Target.skip _ _ _ _ h (by simp)).2
    cases h
  exact BitVec.eq_of_toNat_eq (by rw [BitVec.toNat_ofNat]; omega)

end Sys2Proof.Machine
end

section
/-! PROOFS. The invariant: power-on meets it, each named update of the state keeps it, and so does every step
(spec/10_state.md R21 to R23, R29, R34, R40). -/

namespace Sys2Proof.Machine

namespace State.Inv

variable {s t : State}

/-- A completion ends BUSY, so it may set DONE and an error code. -/
theorem completed (h : s.Inv) (e : ErrCode) : (s.completed e).Inv := ⟨h.bmem, h.curve, nofun, h.outLen⟩

theorem setReg (h : s.Inv) (i : BReg) (v : Big) : (s.setReg i v).Inv := ⟨h.bmem, h.curve, h.busy, h.outLen⟩

theorem setNum (h : s.Inv) (i : BReg) (v : Nat) : (s.setNum i v).Inv := h.setReg i _

theorem setPoint (h : s.Inv) (j : BReg) (P : Point) : (s.setPoint j P).Inv := (h.setNum j P.1).setNum _ P.2

theorem setSqrtUsed (h : s.Inv) (n : Nat) (ent : Entropy) : (s.setSqrtUsed n ent).Inv :=
  ⟨h.bmem, h.curve, h.busy, h.outLen⟩

/-- CURVESET loads only a curve that passed the check (R100, R103). -/
theorem setCurve (h : s.Inv) {p a b : Big} (hcheck : curveCheck p.toNat a.toNat b.toNat = none) :
    (s.setCurve p a b).Inv := ⟨h.bmem, ⟨fun _ => hcheck, nofun⟩, h.busy, h.outLen⟩

/-- An output that fits keeps BMEM canonical, and its length is at most the size of BMEM (R56). -/
theorem storeOutput (h : s.Inv) {out : List Byte} (hfits : s.dstAddr.toNat + out.length ≤ Config.bmemSize) :
    (s.storeOutput out).Inv :=
  ⟨Memory.writeBytes_wf _ _ _ h.bmem hfits, h.curve, h.busy, by
    rw [storeOutput_outLen, BitVec.toNat_ofNat]
    exact (Nat.mod_le _ _).trans (by omega)⟩

theorem poweredOn (s : State) : s.poweredOn.Inv :=
  ⟨Memory.reset_wf, ⟨nofun, fun _ => ⟨rfl, rfl, rfl⟩⟩, nofun, Nat.zero_le _⟩

theorem softReset (h : s.Inv) : s.softReset.Inv := ⟨h.bmem, ⟨nofun, fun _ => ⟨rfl, rfl, rfl⟩⟩, nofun, Nat.zero_le _⟩

/-- Issue clears DONE and ERRCODE (R40 a). -/
theorem issued (h : s.Inv) (v : Word) : (s.issued v).Inv := ⟨h.bmem, h.curve, fun _ => ⟨rfl, rfl⟩, h.outLen⟩

/-- A write to STATUS can only clear DONE (R29). -/
theorem writeStatus (h : s.Inv) (v : Word) : (s.writeStatus v).Inv := by
  refine ⟨h.bmem, h.curve, fun hbusy => ?_, h.outLen⟩
  obtain ⟨hdone, herr⟩ := h.busy hbusy
  exact ⟨by simp [State.writeStatus, hdone], herr⟩

theorem writeCtrl (h : s.Inv) (v : Word) : (s.writeCtrl v).Inv := by
  cases hsrst : v.getLsbD 0 with
  | true => exact State.writeCtrl_srst hsrst s ▸ h.softReset
  | false => exact State.writeCtrl_noReset hsrst s ▸ ⟨h.bmem, h.curve, h.busy, h.outLen⟩

theorem guarded (h : s.Inv) (ht : t.Inv) : (s.guarded t).Inv := by
  rcases s.guarded_cases t with heq | heq <;> rw [heq]
  · exact ⟨h.bmem, h.curve, h.busy, h.outLen⟩
  · exact ht

/-- A well-formed write keeps the invariant; the words of the BMEM window lie inside BMEM (R39). -/
theorem writeTarget (h : s.Inv) (off : Offset) (v : Word) : (s.writeTarget (Target.ofOffset off) v).Inv := by
  cases htarget : Target.ofOffset off with
  | info | outLen | sqrtIterUsed | curve | reserved => exact h
  | ctrl => exact h.writeCtrl v
  | status => exact h.writeStatus v
  | cmd => exact h.guarded (h.issued v)
  | srcAddr | srcLen | dstAddr | sqrtIterMax => exact h.guarded ⟨h.bmem, h.curve, h.busy, h.outLen⟩
  | breg i j => exact h.guarded (h.setReg i _)
  | bmem addr =>
    have hfits : addr + (beBytes v.toNat 4).length ≤ Config.bmemSize := by
      rw [beBytes_length]; exact (Target.bmem_inside off addr htarget).2
    exact h.guarded ⟨Memory.writeBytes_wf _ _ _ h.bmem hfits, h.curve, h.busy, h.outLen⟩

/-- Every completion of a command keeps the invariant. -/
theorem exec (h : s.Inv) {i : Instr} (ht : exec i s = .next t) : t.Inv := by
  cases exec_next i s t ht with
  | raised e => exact h.completed e
  | rootFailed e n ent => exact (h.setSqrtUsed n ent).completed e
  | root rd y n ent => exact ((h.setSqrtUsed n ent).setNum rd y).completed .none
  | number rd v => exact (h.setNum rd v).completed .none
  | point rd P => exact (h.setPoint rd P).completed .none
  | curve rs1 rs2 rs3 _ hcheck => exact (h.setCurve hcheck).completed .none
  | output out _ _ _ hfits => exact (h.storeOutput hfits).completed .none

theorem engineTurn (h : s.Inv) (ht : engineTurn s = .next t) : t.Inv := by
  obtain ⟨-, rfl⟩ | ⟨-, i, -, hexec⟩ | ⟨-, e, -, hreject⟩ := engineTurn_cases ht
  · exact h
  · exact h.exec hexec
  · rw [rejectCommand_eq, Host.Outcome.next.injEq] at hreject
    exact hreject ▸ (h.setSqrtUsed _ _).completed _

/-- Every event keeps the invariant. -/
theorem perform (h : s.Inv) {ev : Event} (ht : perform ev s = .next t) : t.Inv := by
  cases ev with
  | read size off =>
    obtain ⟨v, b, rfl⟩ := hostRead_next ht
    exact ⟨h.bmem, h.curve, h.busy, h.outLen⟩
  | write size off v =>
    obtain ⟨-, -, rfl⟩ | rfl := hostWrite_next ht
    · exact h.writeTarget off v
    · exact ⟨h.bmem, h.curve, h.busy, h.outLen⟩
  | engine => exact h.engineTurn ht
  | powerOn => cases ht; exact poweredOn s

end State.Inv

/-- Settles O9: a step is one event, and every event keeps the invariant. -/
theorem stepKeepsTheInvariant : Obligations.StepKeepsTheInvariant := by
  intro s t hs hstep
  rw [step_eq_perform] at hstep
  have htail : State.Inv { s with agenda := s.agenda.tail } := ⟨hs.bmem, hs.curve, hs.busy, hs.outLen⟩
  exact htail.perform hstep

/-- Settles O10: the power-on state is what a power-on event leaves of it. -/
theorem powerOnStateMeetsTheInvariant : Obligations.PowerOnStateMeetsTheInvariant :=
  State.Inv.poweredOn State.reset

end Sys2Proof.Machine
end

section
/-! SUPPORT. A command word is its six fields, and each row's mask and match words are the rules R74 and R75 field by
field (spec/30_encoding.md R70 to R76). -/

namespace Sys2Proof

/-- A word is determined by its six fields (R70). -/
theorem word_eq_iff_fields (w v : Word) :
    w = v ↔ opcField w = opcField v ∧ (rdField w).bits = (rdField v).bits ∧ (rs1Field w).bits = (rs1Field v).bits ∧
      (rs2Field w).bits = (rs2Field v).bits ∧ (rs3Field w).bits = (rs3Field v).bits ∧ rsvField w = rsvField v := by
  refine ⟨by rintro rfl; simp, fun hfields => BitVec.eq_of_toNat_eq ?_⟩
  have hw := w.isLt
  have hv := v.isLt
  simp only [opcField, rdField, rs1Field, rs2Field, rs3Field, rsvField, BReg.bits, BitVec.ofFin_toFin,
    ← BitVec.toNat_inj, BitVec.extractLsb'_toNat, Nat.shiftRight_eq_div_pow] at hfields
  omega

theorem opcField_and (w v : Word) : opcField (w &&& v) = opcField w &&& opcField v := BitVec.extractLsb'_and
theorem rdField_and (w v : Word) : (rdField (w &&& v)).bits = (rdField w).bits &&& (rdField v).bits :=
  BitVec.extractLsb'_and
theorem rs1Field_and (w v : Word) : (rs1Field (w &&& v)).bits = (rs1Field w).bits &&& (rs1Field v).bits :=
  BitVec.extractLsb'_and
theorem rs2Field_and (w v : Word) : (rs2Field (w &&& v)).bits = (rs2Field w).bits &&& (rs2Field v).bits :=
  BitVec.extractLsb'_and
theorem rs3Field_and (w v : Word) : (rs3Field (w &&& v)).bits = (rs3Field w).bits &&& (rs3Field v).bits :=
  BitVec.extractLsb'_and
theorem rsvField_and (w v : Word) : rsvField (w &&& v) = rsvField w &&& rsvField v := BitVec.extractLsb'_and

theorem FieldUse.zeroOk_eq_false_iff (u : FieldUse) (r : BReg) : u.zeroOk r = false ↔ u = .unused ∧ r ≠ 0 := by
  simp [FieldUse.zeroOk]

theorem FieldUse.parityOk_eq_false_iff (u : FieldUse) (r : BReg) :
    u.parityOk r = false ↔ u = .point ∧ r.val % 2 = 1 := by
  simp [FieldUse.parityOk, BReg.isPoint]

/-- What fails R74: RSV or an unused field that is not 0. -/
theorem zeroFieldsOk_eq_false_iff (o : Opcode) (w : Word) :
    zeroFieldsOk o w = false ↔ rsvField w ≠ 0#8 ∨
      (o.uses.rd = .unused ∧ rdField w ≠ 0) ∨ (o.uses.rs1 = .unused ∧ rs1Field w ≠ 0) ∨
      (o.uses.rs2 = .unused ∧ rs2Field w ≠ 0) ∨ (o.uses.rs3 = .unused ∧ rs3Field w ≠ 0) := by
  simp only [zeroFieldsOk, Bool.and_eq_false_iff, FieldUse.zeroOk_eq_false_iff, beq_eq_false_iff_ne, or_assoc]

/-- What fails R75: an odd point field. -/
theorem pointFieldsOk_eq_false_iff (o : Opcode) (w : Word) :
    pointFieldsOk o w = false ↔
      (o.uses.rd = .point ∧ (rdField w).val % 2 = 1) ∨ (o.uses.rs1 = .point ∧ (rs1Field w).val % 2 = 1) ∨
      (o.uses.rs2 = .point ∧ (rs2Field w).val % 2 = 1) ∨ (o.uses.rs3 = .point ∧ (rs3Field w).val % 2 = 1) := by
  simp only [pointFieldsOk, Bool.and_eq_false_iff, FieldUse.parityOk_eq_false_iff, or_assoc]

/-- The bits of a field that the mask of its row keeps: all of an unused field, the parity of a point field (R76). -/
def FieldUse.mask : FieldUse → BitVec 4
  | .unused => 0xF#4
  | .reg => 0x0#4
  | .point => 0x1#4

/-- The kept bits of a field are 0 exactly when it passes R74 and R75. -/
theorem FieldUse.masked_eq_zero_iff (u : FieldUse) (r : BReg) :
    r.bits &&& u.mask = 0#4 ↔ u.zeroOk r = true ∧ u.parityOk r = true := by
  cases u <;> revert r <;> decide

theorem Opcode.fields_mask (o : Opcode) :
    opcField o.mask = 0xFF#8 ∧ (rdField o.mask).bits = o.uses.rd.mask ∧ (rs1Field o.mask).bits = o.uses.rs1.mask ∧
      (rs2Field o.mask).bits = o.uses.rs2.mask ∧ (rs3Field o.mask).bits = o.uses.rs3.mask ∧
      rsvField o.mask = 0xFF#8 := by
  cases o <;> decide

theorem Opcode.matchWord_eq_packWord (o : Opcode) : o.matchWord = packWord o.code 0 0 0 0 := by
  cases o <;> rfl

/-- A word matches a row exactly when it carries the row's opcode and passes R74 and R75 (R76). -/
theorem Opcode.matches_iff (o : Opcode) (w : Word) :
    w &&& o.mask = o.matchWord ↔ opcField w = o.code ∧ zeroFieldsOk o w = true ∧ pointFieldsOk o w = true := by
  obtain ⟨hopc, hrd, hrs1, hrs2, hrs3, hrsv⟩ := o.fields_mask
  have hall (x : BitVec 8) : x &&& 0xFF#8 = x := BitVec.and_allOnes
  have hzero : BReg.bits 0 = 0#4 := rfl
  simp only [word_eq_iff_fields, opcField_and, rdField_and, rs1Field_and, rs2Field_and, rs3Field_and, rsvField_and,
    hopc, hrd, hrs1, hrs2, hrs3, hrsv, hall, o.matchWord_eq_packWord, opcField_packWord, rdField_packWord,
    rs1Field_packWord, rs2Field_packWord, rs3Field_packWord, rsvField_packWord, hzero, FieldUse.masked_eq_zero_iff,
    zeroFieldsOk, pointFieldsOk, Bool.and_eq_true, beq_iff_eq]
  tauto

end Sys2Proof
end

section
/-! PROOFS. The decoder follows R76: the opcode first, then R74, then R75, and a word that passes runs its command
(spec/30_encoding.md R72 to R76; spec/10_state.md R40). -/

open Sys2Proof.Spec

namespace Sys2Proof.Machine

theorem ofCode_of_illegalOpcode {b : BitVec 8} (h : b ∉ opcodes) : Opcode.ofCode b = none := by
  cases hcode : Opcode.ofCode b with
  | none => rfl
  | some o =>
    refine absurd ?_ h
    rw [(Opcode.ofCode_eq_some o b).mp hcode]
    cases o <;> decide

theorem decode_of_illegalOpcode {w : Word} (h : opcField w ∉ opcodes) : decode w = .error .illegalOpcode := by
  rw [decode, ofCode_of_illegalOpcode h]

section
variable {w : Word} {o : Opcode} (hopc : opcField w = o.code)
include hopc

/-- The decoder on a word of a legal opcode: R74 before R75. -/
theorem decode_of_opcode :
    decode w =
      if zeroFieldsOk o w then
        if pointFieldsOk o w then .ok (o.build (rdField w) (rs1Field w) (rs2Field w) (rs3Field w))
        else .error .oddPoint
      else .error .nonzeroField := by
  rw [decode, (Opcode.ofCode_eq_some o _).mpr hopc]

theorem decode_of_nonzeroField (hzero : zeroFieldsOk o w = false) : decode w = .error .nonzeroField := by
  simp [decode_of_opcode hopc, hzero]

theorem decode_of_oddPoint (hzero : zeroFieldsOk o w = true) (hpoint : pointFieldsOk o w = false) :
    decode w = .error .oddPoint := by
  simp [decode_of_opcode hopc, hzero, hpoint]

/-- A word that matches its row decodes to a command of the row. -/
theorem decode_of_matches (hmatch : w &&& o.mask = o.matchWord) : ∃ i, decode w = .ok i ∧ i.opcode = o := by
  obtain ⟨-, hzero, hpoint⟩ := (o.matches_iff w).mp hmatch
  refine ⟨o.build (rdField w) (rs1Field w) (rs2Field w) (rs3Field w), ?_, by cases o <;> rfl⟩
  simp [decode_of_opcode hopc, hzero, hpoint]

/-- A word of a legal opcode that fails R74 or R75 is an OPERAND error, whichever it fails first. -/
theorem decode_of_badField (hbad : zeroFieldsOk o w = false ∨ pointFieldsOk o w = false) :
    ∃ e, decode w = .error e ∧ decodeErrCode e = .operand := by
  cases hzero : zeroFieldsOk o w with
  | false => exact ⟨_, decode_of_nonzeroField hopc hzero, rfl⟩
  | true => exact ⟨_, decode_of_oddPoint hopc hzero (hbad.resolve_left (by simp [hzero])), rfl⟩

/-- Only MODSQRT and YFROMX words count draws (R36). -/
theorem countsDraws_eq : countsDraws w = decide (o = .modsqrt ∨ o = .yfromx) := by
  rw [countsDraws, (Opcode.ofCode_eq_some o _).mpr hopc]
  cases o <;> rfl

theorem decode_of_mismatch (hmismatch : w &&& o.mask ≠ o.matchWord) :
    ∃ e, decode w = .error e ∧ decodeErrCode e = .operand := by
  refine decode_of_badField hopc ?_
  by_contra! hok
  exact hmismatch ((o.matches_iff w).mpr ⟨hopc, by simpa using hok.1, by simpa using hok.2⟩)

end

/-- Settles O4, clause by clause from what the decoder does with an illegal opcode, a match and a mismatch. -/
theorem decodingFollowsTheOpcodeTable : Obligations.DecodingFollowsTheOpcodeTable := by
  refine fun w => ⟨decode_of_illegalOpcode, fun o hopc => ⟨⟨?_, decode_of_matches hopc⟩, decode_of_mismatch hopc,
    decode_of_nonzeroField hopc, decode_of_oddPoint hopc, ?_⟩⟩
  · rintro ⟨i, hi, -⟩
    by_contra hmismatch
    obtain ⟨e, he, -⟩ := decode_of_mismatch hopc hmismatch
    rw [hi] at he
    cases he
  · rintro s hbusy hagenda rfl hmatch
    obtain ⟨i, hi, hio⟩ := decode_of_matches hopc hmatch
    exact ⟨i, hio, by rw [step_busy_of_nil hbusy hagenda, completion_ok hi]⟩

/-- Settles O6: each of the nine bad fields fails R74 or R75, and the rejected word writes nothing but its error and,
for the root commands, a draw count of 0. -/
theorem badFieldsAreOperandErrors : Obligations.BadFieldsAreOperandErrors := by
  intro s o hbusy hagenda hopc hbad
  have hfails : zeroFieldsOk o s.cmd = false ∨ pointFieldsOk o s.cmd = false := by
    rw [zeroFieldsOk_eq_false_iff, pointFieldsOk_eq_false_iff]
    tauto
  obtain ⟨e, he, hcode⟩ := decode_of_badField hopc hfails
  rw [step_busy_of_nil hbusy hagenda, completion_error he, rejectCommand_eq, hcode, countsDraws_eq hopc]
  by_cases hroot : o = .modsqrt ∨ o = .yfromx
  · simp only [hroot, decide_true, if_true]; rfl
  · simp only [hroot, decide_false, if_false, Bool.false_eq_true, State.setSqrtUsed, BitVec.ofNat_toNat,
      BitVec.setWidth_eq]; rfl

/-- Settles O7: the engine's turn, with the agenda empty or at its head, and the wait in IDLE. -/
theorem stepRunsTheDecodedCommand : Obligations.StepRunsTheDecodedCommand := by
  refine ⟨fun s i hbusy hi hagenda => ?_, fun s i rest hbusy hi hagenda => ?_, fun s hidle hagenda => ?_⟩
  · rw [step_busy_of_nil hbusy hagenda, completion_ok hi]
  · rw [step_of_cons hagenda]
    exact (engineTurn_busy (s := { s with agenda := rest }) hbusy).trans (completion_ok hi)
  · rw [step_of_nil hagenda, engineTurn_idle hidle]

end Sys2Proof.Machine
end

section
/-! PROOFS. What the completion of a command changes and what it leaves alone, from the ways a completion can end
(spec/10_state.md R18, R21 to R23, R29, R34, R36, R40; spec/42_codecs.md R133). -/

namespace Sys2Proof.Machine

/-- Settles O11: each ending is a completion of writes that touch no control register, so its frame is that of
`State.completed`. -/
theorem completionEndsTheCommand : Obligations.CompletionEndsTheCommand := by
  intro i s t h
  cases exec_next i s t h <;> exact ⟨rfl, rfl, rfl, rfl, rfl, rfl, rfl, rfl, rfl, rfl, rfl, rfl⟩

/-! ## The curve (R21, R22) -/

/-- The curve registers and CURVE_VALID are the same in both states. -/
def State.SameCurve (t s : State) : Prop :=
  t.curveP = s.curveP ∧ t.curveA = s.curveA ∧ t.curveB = s.curveB ∧ t.curveValid = s.curveValid

theorem State.SameCurve.rfl {s : State} : s.SameCurve s := ⟨.refl _, .refl _, .refl _, .refl _⟩

/-- A completion keeps the curve, or it is that of a CURVESET, which loads its operands and does not fail. -/
theorem exec_curve {i : Instr} {s t : State} (h : exec i s = .next t) :
    t.SameCurve s ∨ ∃ rs1 rs2 rs3, i = .curveset rs1 rs2 rs3 ∧
      t = (s.setCurve (s.reg rs1) (s.reg rs2) (s.reg rs3)).completed .none := by
  cases exec_next i s t h with
  | curve rs1 rs2 rs3 hi _ => exact .inr ⟨rs1, rs2, rs3, hi, rfl⟩
  | raised | rootFailed | root | number | point | output => exact .inl ⟨rfl, rfl, rfl, rfl⟩

theorem State.guarded_sameCurve {s t : State} (h : t.SameCurve s) : (s.guarded t).SameCurve s := by
  rcases s.guarded_cases t with heq | heq <;> rw [heq]
  · exact ⟨rfl, rfl, rfl, rfl⟩
  · exact h

/-- Of the writes, only one to CTRL with SRST = 1 touches the curve (R28, R38). -/
theorem State.writeTarget_curve (s : State) (target : Target) (v : Word) :
    (s.writeTarget target v).SameCurve s ∨
      target = .ctrl ∧ v.getLsbD 0 = true ∧ s.writeTarget target v = s.softReset := by
  cases target with
  | ctrl =>
    cases hsrst : v.getLsbD 0 with
    | true => exact .inr ⟨rfl, rfl, State.writeCtrl_srst hsrst s⟩
    | false =>
      left
      rw [State.writeTarget, State.writeCtrl_noReset hsrst]
      exact ⟨rfl, rfl, rfl, rfl⟩
  | info | status | outLen | sqrtIterUsed | curve | reserved => exact .inl ⟨rfl, rfl, rfl, rfl⟩
  | cmd | srcAddr | srcLen | dstAddr | sqrtIterMax | breg | bmem =>
    exact .inl (State.guarded_sameCurve ⟨rfl, rfl, rfl, rfl⟩)

/-- The engine's turn changes the curve only at a CURVESET that completes without error (R103). -/
theorem engineTurn_curve {s t : State} (h : engineTurn s = .next t) :
    t.SameCurve s ∨ s.phase = .busy ∧ ∃ rs1 rs2 rs3, decode s.cmd = .ok (.curveset rs1 rs2 rs3) ∧
      t = (s.setCurve (s.reg rs1) (s.reg rs2) (s.reg rs3)).completed .none := by
  obtain ⟨-, rfl⟩ | ⟨hbusy, i, hi, hexec⟩ | ⟨-, e, -, hreject⟩ := engineTurn_cases h
  · exact .inl .rfl
  · obtain hsame | ⟨rs1, rs2, rs3, rfl, ht⟩ := exec_curve hexec
    · exact .inl hsame
    · exact .inr ⟨hbusy, rs1, rs2, rs3, hi, ht⟩
  · rw [rejectCommand_eq, Host.Outcome.next.injEq] at hreject
    subst hreject
    exact .inl ⟨rfl, rfl, rfl, rfl⟩

/-- The event a step performs is the head of the agenda, or the engine's turn when the agenda is empty (log 2). -/
theorem head?_of_headD {l : List Event} {ev : Event} (h : l.headD .engine = ev) :
    l = [] ∧ ev = .engine ∨ l.head? = some ev := by
  cases l with
  | nil => exact .inl ⟨rfl, h.symm⟩
  | cons a l => exact .inr (congrArg some h)

/-- Settles O13, event by event: a read and most writes keep the curve, SRST and power-on clear it, and the engine's
turn loads it at a CURVESET. -/
theorem curveChangesOnlyByCurvesetOrReset : Obligations.CurveChangesOnlyByCurvesetOrReset := by
  intro s t hstep
  rw [step_eq_perform] at hstep
  cases hev : s.agenda.headD .engine with
  | read size off =>
    rw [hev] at hstep
    obtain ⟨v, b, rfl⟩ := hostRead_next hstep
    exact .inl ⟨rfl, rfl, rfl, rfl⟩
  | write size off v =>
    rw [hev] at hstep
    obtain ⟨rfl, halign, rfl⟩ | rfl := hostWrite_next hstep
    · obtain hsame | ⟨htarget, hsrst, heq⟩ := State.writeTarget_curve _ (Target.ofOffset off) v
      · exact .inl hsame
      · obtain rfl := Target.offset_of_ctrl htarget halign
        rw [heq]
        have hhead := (head?_of_headD hev).resolve_left nofun
        exact .inr (.inl ⟨.inr ⟨v, hsrst, hhead⟩, rfl, rfl, rfl, rfl⟩)
    · exact .inl ⟨rfl, rfl, rfl, rfl⟩
  | engine =>
    rw [hev] at hstep
    obtain hsame | ⟨hbusy, rs1, rs2, rs3, hi, rfl⟩ := engineTurn_curve hstep
    · exact .inl hsame
    · have hhead := (head?_of_headD hev).imp_left And.left
      exact .inr (.inr ⟨hhead, hbusy, rfl, rs1, rs2, rs3, hi, rfl, rfl, rfl, rfl⟩)
  | powerOn =>
    rw [hev] at hstep
    cases hstep
    have hhead := (head?_of_headD hev).resolve_left nofun
    exact .inr (.inl ⟨.inl hhead, rfl, rfl, rfl, rfl⟩)

/-! ## BMEM and the big-number registers (R18, R23, R34) -/

theorem writeBytes_readByte_ne_none (m : Memory) (a : Nat) (out : List Byte) {k : Nat} (hk : k < out.length) :
    (m.writeBytes a out).readByte (a + k) ≠ none := by
  rw [Memory.readByte_writeBytes, if_pos ⟨by omega, by omega⟩, Nat.add_sub_cancel_left, List.getElem?_eq_getElem hk]
  exact Option.some_ne_none _

/-- The root commands have no output in BMEM (R34). -/
theorem writesBmem_of_takesRoot {i : Instr} (h : takesRoot i = true) : writesBmem i = false := by
  cases i with
  | modsqrt | yfromx => rfl
  | _ => cases h

/-- Settles O14: only the ending `output` writes BMEM, with an output that was checked to fit. -/
theorem onlyTheOutputRangeOfBmemChanges : Obligations.OnlyTheOutputRangeOfBmemChanges := by
  intro i s t h
  cases exec_next i s t h with
  | raised e he | rootFailed e _ _ he => exact ⟨fun _ => ⟨rfl, rfl⟩, fun _ hnone => absurd hnone he⟩
  | root _ _ _ _ hroot =>
    exact ⟨fun _ => ⟨rfl, rfl⟩, fun hwrites => by simp [writesBmem_of_takesRoot hroot] at hwrites⟩
  | number _ _ _ hw | point _ _ _ hw => exact ⟨fun _ => ⟨rfl, rfl⟩, fun hwrites => by simp [hw] at hwrites⟩
  | curve _ _ _ hi => exact ⟨fun _ => ⟨rfl, rfl⟩, fun hwrites => by simp [hi, writesBmem] at hwrites⟩
  | output out _ hw _ hfits =>
    have hsize : Config.bmemSize = 4096 := rfl
    have hlen : (BitVec.ofNat 32 out.length).toNat = out.length := by
      rw [BitVec.toNat_ofNat, Nat.mod_eq_of_lt (by omega)]
    refine ⟨fun hfails => ?_, fun _ _ => ?_⟩
    · simp [hw] at hfails
    · simp only [State.completed_outLen, State.completed_bmem, State.storeOutput_outLen, State.storeOutput_bmem, hlen]
      exact ⟨hfits, fun k hk => writeBytes_readByte_ne_none _ _ _ hk,
        fun a ha => Memory.readByte_writeBytes_outside _ _ _ _ ha⟩

/-- Settles O15: an error commits no register, and each other ending writes at most the destinations of the command. -/
theorem registersOutsideTheDestinationKeepTheirValue : Obligations.RegistersOutsideTheDestinationKeepTheirValue := by
  intro i s t h j hj
  cases exec_next i s t h with
  | raised | rootFailed | curve | output => rfl
  | root rd y n ent _ hd | number rd v _ _ hd =>
    have hne : rd ≠ j := by simpa [hd, eq_comm] using hj
    exact State.reg_setReg_other _ rd j _ hne
  | point rd P _ _ hd =>
    obtain ⟨hne, hodd⟩ : rd ≠ j ∧ oddOf rd ≠ j := by simpa [hd, eq_comm] using hj
    rw [State.reg_completed, State.reg_setPoint, if_neg hodd, if_neg hne]

/-! ## The draws (R36) -/

theorem modSqrt_attempts (g p cap : Nat) (ent : Entropy) :
    ∃ n, n ≤ cap ∧ (modSqrt g p cap ent).attempts = (n, ⟨ent.supply.drop n, ent.drawn + n⟩) := by
  have hnone : ∃ n, n ≤ cap ∧ ((0 : Nat), ent) = (n, (⟨ent.supply.drop n, ent.drawn + n⟩ : Entropy)) :=
    ⟨0, Nat.zero_le cap, rfl⟩
  unfold modSqrt
  split
  · exact hnone
  · split
    · unfold sqrtA; dsimp only; split <;> exact hnone
    · split
      · unfold sqrtB
        dsimp only
        split
        · exact hnone
        · split <;> exact hnone
      · simpa [sqrtC] using sqrtCLoop_attempts g p cap 0 ent

/-- The count and the entropy source that an outcome of `modSqrt` reports: the count fits SQRT_ITER_USED, since it is at
most SQRT_ITER_MAX. -/
theorem attempts_accounted {s : State} {g p n : Nat} {ent : Entropy}
    (h : (modSqrt g p s.sqrtIterMax.toNat s.entropy).attempts = (n, ent)) :
    (BitVec.ofNat 16 n).toNat ≤ s.sqrtIterMax.toNat ∧
      ent.drawn = s.entropy.drawn + (BitVec.ofNat 16 n).toNat ∧
      ent.supply = s.entropy.supply.drop (BitVec.ofNat 16 n).toNat := by
  obtain ⟨m, hm, hmodSqrt⟩ := modSqrt_attempts g p s.sqrtIterMax.toNat s.entropy
  rw [hmodSqrt, Prod.mk.injEq] at h
  obtain ⟨rfl, rfl⟩ := h
  rw [BitVec.toNat_ofNat, Nat.mod_eq_of_lt (hm.trans_lt s.sqrtIterMax.isLt)]
  exact ⟨hm, rfl, rfl⟩

/-- Settles O16: only the endings of a root command write the count, and the count is the draws `modSqrt` made. -/
theorem attemptCountIsTheNumberOfDraws : Obligations.AttemptCountIsTheNumberOfDraws := by
  intro i s t h
  cases exec_next i s t h with
  | raised _ _ hroot | number _ _ hroot | point _ _ hroot | output _ hroot =>
    exact ⟨fun _ => ⟨rfl, rfl⟩, fun hroot' => by simp [hroot] at hroot'⟩
  | curve _ _ _ hi => exact ⟨fun _ => ⟨rfl, rfl⟩, fun hroot => by simp [hi, takesRoot] at hroot⟩
  | rootFailed _ n ent _ hroot ho =>
    refine ⟨fun hroot' => by simp [hroot] at hroot', fun _ => ?_⟩
    obtain ⟨g, p, ho | ⟨rfl, rfl⟩⟩ := ho
    · exact attempts_accounted (congrArg SqrtOutcome.attempts ho)
    · exact ⟨Nat.zero_le _, rfl, rfl⟩
  | root _ _ n ent hroot _ ho =>
    refine ⟨fun hroot' => by simp [hroot] at hroot', fun _ => ?_⟩
    obtain ⟨g, p, ho⟩ := ho
    exact attempts_accounted (congrArg SqrtOutcome.attempts ho)

/-! ## The one stop (R44, R133) -/

/-- The commands that read BMEM begin with CheckSrc (R133). -/
theorem exec_eq_withSrc {i : Instr} (h : readsBmem i = true) (s : State) : ∃ k, exec i s = withSrc s k := by
  cases i with
  | b2i | b85e | b85d | a85e | a85d | u8e | u8d => exact ⟨_, rfl⟩
  | _ => cases h

/-- CheckSrc stops at the lowest byte of the range that was never written (log 6). -/
theorem withSrc_unwritten {s : State} {a : Nat} (k : List Byte → Result)
    (hrange : s.srcAddr.toNat + s.srcLen.toNat ≤ Config.bmemSize) (hlo : s.srcAddr.toNat ≤ a)
    (hhi : a < s.srcAddr.toNat + s.srcLen.toNat) (hnone : s.bmem.readByte a = none)
    (hlowest : ∀ b, s.srcAddr.toNat ≤ b → b < a → s.bmem.readByte b ≠ none) :
    withSrc s k = .fault (.unwrittenByte a) := by
  rw [withSrc, if_neg (Nat.not_lt.mpr hrange), (Memory.readBytes_error_iff _ _ _ a).mpr ⟨hlo, hhi, hnone, hlowest⟩]

/-- Settles O17: no ending is a refusal, the only stop is the ending `unwritten`, and CheckSrc stops on every such
byte. -/
theorem commandsStopOnlyOnUnwrittenInput : Obligations.CommandsStopOnlyOnUnwrittenInput := by
  intro i s
  have hending := exec_ending i s
  refine ⟨fun r hr => ?_, fun f hf => ?_, fun a hreads hrange hlo hhi hnone hlowest => ?_⟩
  · rw [hr] at hending
    cases hending
  · rw [hf] at hending
    cases hending with
    | unwritten a hreads hlo hhi hrange hnone => exact ⟨hreads, hrange, a, rfl, hlo, hhi, hnone⟩
  · obtain ⟨k, hk⟩ := exec_eq_withSrc hreads s
    rw [hk, withSrc_unwritten k hrange hlo hhi hnone hlowest]

end Sys2Proof.Machine
end

section
/-! SUPPORT. Well-formed host accesses as steps, and what a target of the register map says of them
(spec/10_state.md R24 to R39; spec/20_memory.md R52, R53). -/

namespace Sys2Proof.Machine

section
variable {s : State} {off : Offset} {rest : List Event}

theorem State.readTarget_agenda (s : State) (rest : List Event) (target : Target) :
    State.readTarget { s with agenda := rest } target = s.readTarget target := by
  cases target <;> rfl

/-- A well-formed read returns the value of its target (R52). -/
theorem step_read_word {v : Word} (hagenda : s.agenda = .read .word off :: rest) (halign : off.toNat % 4 = 0)
    (hread : s.readTarget (Target.ofOffset off) = .ok v) : step s = .next { s with agenda := rest, readData := v } := by
  rw [step_of_cons hagenda, perform, hostRead, if_pos (by simp [wellFormedAccess, halign]), State.readTarget_agenda,
    hread]

/-- A well-formed read stops on a byte that was never written (R44). -/
theorem step_read_unwritten {a : Nat} (hagenda : s.agenda = .read .word off :: rest) (halign : off.toNat % 4 = 0)
    (hread : s.readTarget (Target.ofOffset off) = .error a) : step s = .fault (.unwrittenByte a) := by
  rw [step_of_cons hagenda, perform, hostRead, if_pos (by simp [wellFormedAccess, halign]), State.readTarget_agenda,
    hread]

/-- A well-formed write is the write of its target (R52). -/
theorem step_write_word {v : Word} (hagenda : s.agenda = .write .word off v :: rest) (halign : off.toNat % 4 = 0) :
    step s = .next (State.writeTarget { s with agenda := rest } (Target.ofOffset off) v) := by
  rw [step_of_cons hagenda, perform, hostWrite, if_pos (by simp [wellFormedAccess, halign])]

end

/-- The targets whose writes are accepted in IDLE and dropped in BUSY (R26). -/
def Target.isOperand : Target → Bool
  | .cmd | .srcAddr | .srcLen | .dstAddr | .sqrtIterMax | .breg _ _ | .bmem _ => true
  | .info | .ctrl | .status | .outLen | .sqrtIterUsed | .curve _ _ | .reserved => false

/-- The targets whose writes are ignored without any flag (R24, R53). -/
def Target.isReadOnly : Target → Bool
  | .info | .outLen | .sqrtIterUsed | .curve _ _ | .reserved => true
  | .ctrl | .status | .cmd | .srcAddr | .srcLen | .dstAddr | .sqrtIterMax | .breg _ _ | .bmem _ => false

theorem State.writeTarget_busy {s : State} {target : Target} (hbusy : s.phase = .busy) (h : target.isOperand = true)
    (v : Word) : s.writeTarget target v = { s with ovr := true } := by
  cases target with
  | cmd | srcAddr | srcLen | dstAddr | sqrtIterMax | breg | bmem => exact State.guarded_busy hbusy _
  | _ => cases h

theorem State.writeTarget_readOnly {target : Target} (h : target.isReadOnly = true) (s : State) (v : Word) :
    s.writeTarget target v = s := by
  cases target with
  | info | outLen | sqrtIterUsed | curve | reserved => rfl
  | _ => cases h

/-- Where the targets that BUSY protects lie (R26). -/
theorem Target.isOperand_ofOffset {off : Offset}
    (h : off.toNat = 0x000C ∨ off.toNat = 0x0010 ∨ off.toNat = 0x0014 ∨ off.toNat = 0x0018 ∨ off.toNat = 0x0020 ∨
      (0x0400 ≤ off.toNat ∧ off.toNat < 0x0600) ∨ 0x1000 ≤ off.toNat) : (Target.ofOffset off).isOperand = true := by
  rcases h with h | h | h | h | h | ⟨hlo, hhi⟩ | hlo
  iterate 5 rw [Target.ofOffset_eq off _ h]; rfl
  · obtain ⟨i, j, hij⟩ := Target.ofOffset_bregRange off hlo hhi
    rw [hij]; rfl
  · rw [Target.ofOffset_bmem off hlo]; rfl

/-- Where the read-only registers, the CURVE windows and the reserved offsets lie (R24). -/
theorem Target.isReadOnly_ofOffset {off : Offset}
    (h : off.toNat = 0x0000 ∨ off.toNat = 0x001C ∨ off.toNat = 0x0024 ∨
      (0x0028 ≤ off.toNat ∧ off.toNat < 0x0400) ∨ (0x0600 ≤ off.toNat ∧ off.toNat < 0x1000)) :
    (Target.ofOffset off).isReadOnly = true := by
  rcases h with h | h | h | h | ⟨hlo, hhi⟩
  iterate 3 rw [Target.ofOffset_eq off _ h]; rfl
  · rw [Target.ofOffset_reserved off (.inl h)]; rfl
  · by_cases hcurve : off.toNat < 0x0660
    · obtain ⟨c, j, hcj⟩ := Target.ofOffset_curveRange off hlo hcurve
      rw [hcj]; rfl
    · rw [Target.ofOffset_reserved off (.inr ⟨Nat.not_lt.mp hcurve, hhi⟩)]; rfl

end Sys2Proof.Machine
end

section
/-! PROOFS. The host accesses of the register map (spec/10_state.md R24 to R42; spec/20_memory.md R53, R54). -/

namespace Sys2Proof.Machine

/-! ## The control registers (R24 to R36) -/

theorem State.ctrlWord_eq (s : State) : s.ctrlWord = if s.ie then 2#32 else 0#32 := by
  unfold State.ctrlWord
  cases s.ie <;> rfl

/-- The attempt counters are zero-extended on a read (R25, R35, R36). -/
theorem setWidth_32_eq_append (x : BitVec 16) : x.setWidth 32 = 0#16 ++ x := BitVec.setWidth_eq_append (by decide)

/-- Settles O49: each control register and each reserved offset is its target, and the target reads as its value. -/
theorem controlRegisterReads : Obligations.ControlRegisterReads := by
  intro s off rest v hagenda h
  have hread : off.toNat % 4 = 0 ∧ s.readTarget (Target.ofOffset off) = .ok v := by
    rcases h with ⟨rfl, rfl⟩ | ⟨rfl, rfl⟩ | ⟨rfl, rfl⟩ | ⟨rfl, rfl⟩ | ⟨rfl, rfl⟩ | ⟨rfl, rfl⟩ | ⟨rfl, rfl⟩ |
      ⟨rfl, rfl⟩ | ⟨rfl, rfl⟩ | ⟨halign, hlo, hhi, rfl⟩ | ⟨halign, hlo, hhi, rfl⟩
    · exact ⟨rfl, rfl⟩
    · exact ⟨rfl, congrArg _ s.ctrlWord_eq⟩
    iterate 5 exact ⟨rfl, rfl⟩
    · exact ⟨rfl, congrArg _ (setWidth_32_eq_append _)⟩
    · exact ⟨rfl, congrArg _ (setWidth_32_eq_append _)⟩
    · exact ⟨halign, by rw [Target.ofOffset_reserved off (.inl ⟨hlo, hhi⟩)]; rfl⟩
    · exact ⟨halign, by rw [Target.ofOffset_reserved off (.inr ⟨hlo, hhi⟩)]; rfl⟩
  exact step_read_word hagenda hread.1 hread.2

/-! ## STATUS (R29) -/

/-- STATUS as its flags appended bit by bit to the error code (R29). -/
theorem State.statusWord_eq_concat (s : State) :
    s.statusWord = (((((0#16 ++ s.errcode.code ++ 0#3).concat s.curveValid).concat s.buserr).concat s.ovr).concat
      s.done).concat s.isBusy := rfl

/-- The flags are the low five bits of STATUS (R29). -/
theorem State.statusWord_flags (s : State) :
    s.statusWord.getLsbD 0 = (s.phase == .busy) ∧ s.statusWord.getLsbD 1 = s.done ∧ s.statusWord.getLsbD 2 = s.ovr ∧
      s.statusWord.getLsbD 3 = s.buserr ∧ s.statusWord.getLsbD 4 = s.curveValid := by
  simp only [State.statusWord_eq_concat, BitVec.getLsbD_concat]
  exact ⟨rfl, rfl, rfl, rfl, rfl⟩

/-- Above the flags, STATUS is three reserved bits, the error code and reserved bits (R25, R29). -/
theorem State.extractLsb'_statusWord (s : State) (start len : Nat) :
    s.statusWord.extractLsb' (start + 5) len = (0#16 ++ s.errcode.code ++ 0#3).extractLsb' start len := by
  ext k hk
  have hindex : start + 5 + k = start + k + 1 + 1 + 1 + 1 + 1 := by omega
  rw [BitVec.getElem_extractLsb', BitVec.getElem_extractLsb', hindex, State.statusWord_eq_concat]
  simp only [BitVec.getLsbD_concat_succ]

theorem State.statusWord_fields (s : State) :
    s.statusWord.extractLsb' 8 8 = s.errcode.code ∧ s.statusWord.extractLsb' 5 3 = 0#3 ∧
      s.statusWord.extractLsb' 16 16 = 0#16 := by
  refine ⟨(s.extractLsb'_statusWord 3 8).trans ?_, (s.extractLsb'_statusWord 0 3).trans ?_,
    (s.extractLsb'_statusWord 11 16).trans ?_⟩
  · rw [BitVec.extractLsb'_append_eq_of_le (by decide), BitVec.extractLsb'_append_eq_right]
  · rw [BitVec.extractLsb'_append_eq_right]
  · rw [BitVec.extractLsb'_append_eq_of_le (by decide), BitVec.extractLsb'_append_eq_left]

/-- Settles O50: a read shows the assembled word, a write is `State.writeStatus`. -/
theorem statusRegisterReadsAndWrites : Obligations.StatusRegisterReadsAndWrites := by
  refine fun s rest => ⟨fun hagenda => ⟨s.statusWord, step_read_word hagenda rfl rfl, ?_⟩,
    fun v hagenda => step_write_word hagenda rfl⟩
  obtain ⟨hbusy, hdone, hovr, hbuserr, hvalid⟩ := s.statusWord_flags
  obtain ⟨hcode, hlow, hhigh⟩ := s.statusWord_fields
  refine ⟨hbusy, hdone, hovr, hbuserr, hvalid, hlow, hhigh, ?_⟩
  rw [hcode]
  refine ⟨?_, ?_, ?_, ?_, ?_, ?_, ?_, ?_, ?_, ?_, ?_⟩ <;> (intro herr; rw [herr]; rfl)

/-! ## Writes in IDLE and in BUSY (R26, R30 to R35, R40) -/

/-- Settles O55: the offsets of the first list are operand targets, those of the second are read-only. -/
theorem busyWritesAreDropped : Obligations.BusyWritesAreDropped := by
  refine fun s off v rest hagenda halign => ⟨fun hbusy hoff => ?_, fun hoff => ?_⟩
  · rw [step_write_word hagenda halign,
      State.writeTarget_busy (s := { s with agenda := rest }) hbusy (Target.isOperand_ofOffset hoff)]
  · rw [step_write_word hagenda halign, State.writeTarget_readOnly (Target.isReadOnly_ofOffset hoff)]

theorem step_write_idle {s t : State} {off : Offset} {v : Word} {rest : List Event} (hidle : s.phase = .idle)
    (hagenda : s.agenda = .write .word off v :: rest) (halign : off.toNat % 4 = 0)
    (hwrite : State.writeTarget { s with agenda := rest } (Target.ofOffset off) v =
      State.guarded { s with agenda := rest } t) : step s = .next t := by
  rw [step_write_word hagenda halign, hwrite, State.guarded_idle (s := { s with agenda := rest }) hidle]

/-- Settles O56: each of the five writes is guarded, so it takes effect in IDLE. -/
theorem idleWritesTakeEffect : Obligations.IdleWritesTakeEffect := by
  intro s v rest hidle
  refine ⟨fun h => ?_, fun h => ?_, fun h => ?_, fun h => ?_, fun h => ?_⟩
  iterate 4 exact step_write_idle hidle h rfl rfl
  rw [← BitVec.setWidth_eq_extractLsb' (by decide)]
  exact step_write_idle hidle h rfl rfl

/-! ## The windows (R37 to R39) -/

/-- Settles O51: the slice is `bigWord`, and a write in IDLE is `setBigWord` of one register. -/
theorem bregWindowReadsAndWrites : Obligations.BregWindowReadsAndWrites := by
  rintro s i j off rest rfl
  have halign : (BitVec.ofNat 13 (0x0400 + 32 * i.val + 4 * j.val)).toNat % 4 = 0 := by
    rw [BitVec.toNat_ofNat]
    omega
  refine ⟨fun hagenda => step_read_word hagenda halign ?_, fun v hagenda hidle => ?_⟩
  · rw [Target.ofOffset_breg]; rfl
  · refine ⟨State.setReg { s with agenda := rest } i (setBigWord (s.reg i) j.val v),
      step_write_idle hidle hagenda halign ?_, rfl, fun i' hne => State.reg_setReg_other _ i i' _ hne.symm,
      fun j' => ?_⟩
    · rw [Target.ofOffset_breg]; rfl
    · rw [State.reg_setReg_same]
      exact bigWord_setBigWord (s.reg i) j j' v

/-- Settles O52: the offset names one of the three windows, each of them read-only. -/
theorem curveWindowsAreReadOnly : Obligations.CurveWindowsAreReadOnly := by
  intro s j rest off c hoff
  obtain ⟨r, htarget, rfl, halign⟩ : ∃ r, Target.ofOffset off = .curve r j.val ∧ s.curveReg r = c ∧
      off.toNat % 4 = 0 := by
    rcases hoff with ⟨rfl, rfl⟩ | ⟨rfl, rfl⟩ | ⟨rfl, rfl⟩
    · exact ⟨.p, Target.ofOffset_curveP j, rfl, by rw [BitVec.toNat_ofNat]; omega⟩
    · exact ⟨.a, Target.ofOffset_curveA j, rfl, by rw [BitVec.toNat_ofNat]; omega⟩
    · exact ⟨.b, Target.ofOffset_curveB j, rfl, by rw [BitVec.toNat_ofNat]; omega⟩
  refine ⟨fun hagenda => step_read_word hagenda halign ?_, fun v hagenda => ?_⟩
  · rw [htarget]; rfl
  · rw [step_write_word hagenda halign, htarget]; rfl

/-- Four bytes as a big-endian word (R10, R51). -/
theorem ofNat_beValue_four (b0 b1 b2 b3 : Byte) :
    BitVec.ofNat 32 (beValue [b0, b1, b2, b3]) = b0 ++ b1 ++ b2 ++ b3 := by
  apply BitVec.eq_of_toNat_eq
  have := b0.isLt
  have := b1.isLt
  have := b2.isLt
  have := b3.isLt
  simp only [beValue, List.foldl_cons, List.foldl_nil, BitVec.toNat_append, BitVec.toNat_ofNat]
  rw [← Nat.shiftLeft_add_eq_or_of_lt (by omega), ← Nat.shiftLeft_add_eq_or_of_lt (by omega),
    ← Nat.shiftLeft_add_eq_or_of_lt (by omega)]
  omega

/-- The big-endian image of a word (R10, R39). -/
theorem beBytes_four (v : Word) :
    beBytes v.toNat 4 = [v.extractLsb' 24 8, v.extractLsb' 16 8, v.extractLsb' 8 8, v.extractLsb' 0 8] := by
  simp only [beBytes, BitVec.extractLsb', Nat.shiftRight_eq_div_pow, Nat.reducePow]

/-- Settles O53: a read is `readBytes` of the four bytes, a write in IDLE is `writeBytes` of the word's image. -/
theorem bmemWindowReadsAndWrites : Obligations.BmemWindowReadsAndWrites := by
  rintro s m off rest hm rfl
  have hoff : (BitVec.ofNat 13 (0x1000 + 4 * m)).toNat = 0x1000 + 4 * m := by
    rw [BitVec.toNat_ofNat, Nat.mod_eq_of_lt (by omega)]
  have halign : (BitVec.ofNat 13 (0x1000 + 4 * m)).toNat % 4 = 0 := by omega
  have htarget : Target.ofOffset (BitVec.ofNat 13 (0x1000 + 4 * m)) = .bmem (4 * m) := by
    rw [Target.ofOffset_bmem _ (by omega), hoff]
    congr 1
    omega
  refine ⟨fun b0 b1 b2 b3 hagenda h0 h1 h2 h3 => ?_, fun a hagenda hlo hhi hnone hlowest => ?_,
    fun v hagenda hidle => ?_⟩
  · have hbytes : s.bmem.readBytes (4 * m) 4 = .ok [b0, b1, b2, b3] := by
      simp [Memory.readBytes, h0, h1, h2, h3]
    refine step_read_word hagenda halign ?_
    rw [htarget, State.readTarget, hbytes]
    exact congrArg _ (ofNat_beValue_four b0 b1 b2 b3)
  · have hbytes : s.bmem.readBytes (4 * m) 4 = .error a :=
      (Memory.readBytes_error_iff _ _ _ a).mpr ⟨hlo, hhi, hnone, hlowest⟩
    refine step_read_unwritten hagenda halign ?_
    rw [htarget, State.readTarget, hbytes]
  · refine ⟨{ s with agenda := rest, bmem := s.bmem.writeBytes (4 * m) (beBytes v.toNat 4) },
      step_write_idle hidle hagenda halign (by rw [htarget]; rfl), rfl, ?_⟩
    have hread (k : Nat) (hk : k < 4) :
        (s.bmem.writeBytes (4 * m) (beBytes v.toNat 4)).readByte (4 * m + k) = (beBytes v.toNat 4)[k]? := by
      rw [Memory.readByte_writeBytes, beBytes_length, if_pos ⟨by omega, by omega⟩, Nat.add_sub_cancel_left]
    rw [beBytes_four] at hread ⊢
    exact ⟨hread 0 (by decide), hread 1 (by decide), hread 2 (by decide), hread 3 (by decide),
      fun a ha => Memory.readByte_writeBytes_outside _ _ _ a ha⟩

/-! ## Power-on, the interrupt and a running command (R40, R42, R44) -/

/-- Settles O58: a power-on event leaves the reset values. -/
theorem powerOnValues : Obligations.PowerOnValues := by
  rintro s (rfl | ⟨r, rest, hagenda, hstep⟩)
  · exact ⟨rfl, rfl, rfl, rfl, rfl, rfl, rfl, rfl, rfl, rfl, rfl, rfl, rfl, rfl, rfl, rfl, rfl, rfl, fun _ => rfl⟩
  · rw [step_of_cons hagenda] at hstep
    cases hstep
    exact ⟨rfl, rfl, rfl, rfl, rfl, rfl, rfl, rfl, rfl, rfl, rfl, rfl, rfl, rfl, rfl, rfl, rfl, rfl, fun _ => rfl⟩

/-- Settles O59: DONE decides. A completion sets it and keeps IE; the three writes clear it. -/
theorem interruptFollowsDoneAndEnable : Obligations.InterruptFollowsDoneAndEnable := by
  refine ⟨fun s => rfl, fun i s t h => ?_, fun s t v off rest hagenda hoff hstep => ?_, fun s hinv hbusy => ?_⟩
  · obtain ⟨-, hdone, hie, -⟩ := completionEndsTheCommand i s t h
    rw [State.irq, hdone, hie, Bool.true_and]
  · have hdone : t.done = false := by
      rcases hoff with ⟨rfl, hw1c⟩ | ⟨rfl, hidle⟩ | ⟨rfl, hsrst⟩
      · rw [step_write_word hagenda rfl] at hstep
        cases hstep
        change (s.done && !v.getLsbD 1) = false
        rw [hw1c, Bool.not_true, Bool.and_false]
      · rw [step_write_idle hidle hagenda rfl rfl] at hstep
        cases hstep
        rfl
      · rw [step_write_word hagenda rfl] at hstep
        cases hstep
        exact congrArg State.done (State.writeCtrl_srst hsrst _)
    rw [State.irq, hdone, Bool.false_and]
  · rw [State.irq, (hinv.busy hbusy).1, Bool.false_and]

/-- In BUSY a write changes at most IE and the flags of STATUS, unless it is a soft reset (R26, R40 d). -/
theorem State.writeTarget_busy_frame {s : State} (hbusy : s.phase = .busy) (target : Target) (v : Word)
    (hsrst : target = .ctrl → v.getLsbD 0 = false) :
    ∃ ie ovr buserr done, s.writeTarget target v = { s with ie := ie, ovr := ovr, buserr := buserr, done := done } := by
  cases target with
  | info | outLen | sqrtIterUsed | curve | reserved => exact ⟨_, _, _, _, rfl⟩
  | ctrl => exact ⟨_, _, _, _, State.writeCtrl_noReset (hsrst rfl) s⟩
  | status => exact ⟨_, _, _, _, rfl⟩
  | cmd | srcAddr | srcLen | dstAddr | sqrtIterMax | breg | bmem =>
    exact ⟨_, _, _, _, State.writeTarget_busy hbusy rfl v⟩

/-- Settles O60: in BUSY a read changes the read data and BUSERR, and a write without SRST at most a flag or IE. -/
theorem hostCannotDisturbARunningCommand : Obligations.HostCannotDisturbARunningCommand := by
  rintro s t size off v rest hbusy (hagenda | ⟨hagenda, hsrst⟩) hstep
  · rw [step_of_cons hagenda] at hstep
    obtain ⟨w, b, rfl⟩ := hostRead_next hstep
    rfl
  · rw [step_of_cons hagenda] at hstep
    obtain ⟨-, halign, rfl⟩ | rfl := hostWrite_next hstep
    · obtain ⟨_, _, _, _, heq⟩ := State.writeTarget_busy_frame (s := { s with agenda := rest }) hbusy
        (Target.ofOffset off) v fun htarget => hsrst (Target.offset_of_ctrl htarget halign)
      rw [heq]
    · rfl

end Sys2Proof.Machine
end

section
/-! PROOFS. A memory in canonical form is determined by its bytes (spec/10_state.md R23). -/

namespace Sys2Proof.Machine

namespace Memory

/-- Below its lowest address a memory holds no byte. -/
theorem readByte_eq_none (m : Memory) (a : Nat) (h : ∀ c ∈ m, a < c.1) : m.readByte a = none := by
  induction m with
  | nil => rfl
  | cons c m ih =>
    have hc : a < c.1 := h c (List.mem_cons_self ..)
    rw [readByte, if_neg (by omega)]
    exact ih fun d hd => h d (List.mem_cons_of_mem c hd)

/-- The lowest address of a rising memory reads as its own byte, and no address below it reads as one. -/
theorem le_of_readByte_cons (c : Host.Cell) (m : Memory) (hrising : (c :: m).Pairwise fun c d => c.1 < d.1) (a : Nat)
    (h : readByte (c :: m) a ≠ none) : c.1 ≤ a := by
  by_contra hlt
  refine h (readByte_eq_none _ a fun d hd => ?_)
  rcases List.mem_cons.mp hd with rfl | hd
  · omega
  · have : c.1 < d.1 := (List.pairwise_cons.mp hrising).1 d hd
    omega

theorem readByte_cons_self (c : Host.Cell) (m : Memory) : readByte (c :: m) c.1 = some c.2 := if_pos rfl

/-- Rising memories with the same bytes are equal, by induction on both: their first cells are the lowest address with a
byte, and what remains reads alike. -/
theorem eq_of_readByte_eq (m n : Memory) (hm : m.Pairwise fun c d => c.1 < d.1)
    (hn : n.Pairwise fun c d => c.1 < d.1) (h : ∀ a, m.readByte a = n.readByte a) : m = n := by
  induction m generalizing n with
  | nil =>
    cases n with
    | nil => rfl
    | cons d n => exact absurd ((h d.1).trans (readByte_cons_self d n)) nofun
  | cons c m ih =>
    cases n with
    | nil => exact absurd ((h c.1).symm.trans (readByte_cons_self c m)) nofun
    | cons d n =>
      have hc : readByte (d :: n) c.1 = some c.2 := h c.1 ▸ readByte_cons_self c m
      have hd : readByte (c :: m) d.1 = some d.2 := h d.1 ▸ readByte_cons_self d n
      have haddr : c.1 = d.1 :=
        le_antisymm (le_of_readByte_cons c m hm d.1 (by simp [hd])) (le_of_readByte_cons d n hn c.1 (by simp [hc]))
      have hbyte : c.2 = d.2 := by
        rw [haddr, readByte_cons_self] at hc
        exact (Option.some.inj hc).symm
      obtain ⟨hcm, hm⟩ := List.pairwise_cons.mp hm
      obtain ⟨hdn, hn⟩ := List.pairwise_cons.mp hn
      have hrest : m = n := by
        refine ih n hm hn fun a => ?_
        by_cases ha : c.1 = a
        · rw [readByte_eq_none m a (ha ▸ hcm), readByte_eq_none n a (ha ▸ haddr ▸ hdn)]
        · have hda : ¬ d.1 = a := haddr ▸ ha
          have := h a
          rwa [readByte, readByte, if_neg ha, if_neg hda] at this
      rw [Prod.ext haddr hbyte, hrest]

end Memory

/-- Settles O18: canonical memories are rising. -/
theorem canonicalMemoryIsDeterminedByItsBytes : Obligations.CanonicalMemoryIsDeterminedByItsBytes :=
  fun m n hm hn h => Memory.eq_of_readByte_eq m n hm.1 hn.1 h

end Sys2Proof.Machine
end

section
/-! SUPPORT. The closed forms of the statements are what the model computes: the power, the inverse and the sum of two
points (spec/40_modarith.md R81, R82; spec/41_ecc.md R101). -/

open Sys2Proof.Spec

namespace Sys2Proof.Machine

theorem cast_imod (x : Int) (m : Nat) (hm : 0 < m) : (imod x m : Int) = x % (m : Int) :=
  Int.toNat_of_nonneg (Int.emod_nonneg x (by omega))

/-- ModPow is reduced (R81). -/
theorem modPow_lt (b : Int) (e m : Nat) (hm : 2 ≤ m) : modPow b e m < m := by
  unfold modPow
  split
  · omega
  · exact modPowLoop_lt _ _ _ _ _ (by omega) (by omega)

/-- ModPow of an exponent below m − 1 is the plain power mod m (R81). -/
theorem modPow_eq_emod (b : Int) (e m : Nat) (he : e < m - 1) : modPow b e m = (b ^ e % (m : Int)).toNat := by
  have hcast : (modPow b e m : ZMod m) = ((imod (b ^ e) m : Nat) : ZMod m) := by
    rw [natCast_modPow b e m (by omega), natCast_imod _ m (by omega), Nat.mod_eq_of_lt he, Int.cast_pow]
  exact CharP.natCast_injOn_Iio (ZMod m) m (modPow_lt b e m (by omega)) (imod_lt _ m (by omega)) hcast

/-- The same for a base that is a natural number. -/
theorem modPow_natCast (b e m : Nat) (he : e < m - 1) : modPow b e m = b ^ e % m := by
  rw [modPow_eq_emod b e m he, ← Int.natCast_pow, ← Int.natCast_mod, Int.toNat_natCast]

/-- ModInv is its closed form, with the special case ModInv(g, 2) = 1 (R82). -/
theorem modInv_eq_invMod (g : Int) (p : Nat) (hp : 2 ≤ p) : modInv g p = invMod g p := by
  unfold invMod
  split
  case isTrue h2 => rw [h2]; rfl
  case isFalse => exact modPow_eq_emod g (p - 2) p (by omega)

/-- PAdd is the source's `add` (R101): with a sentinel the other operand, else the third point of the chord or of the
tangent. -/
theorem pointAdd_eq_addPoints (P1 P2 : Point) (a p : Nat) (hp : 2 ≤ p) :
    pointAdd P1 P2 a p = addPoints P1 P2 a p := by
  have hslope : (slope P1 P2 a p : Int) =
      (if P1.1 = P2.1 then (3 * (P1.1 : Int) ^ 2 + a) * invMod (2 * P1.2) p
       else ((P2.2 : Int) - P1.2) * invMod ((P2.1 : Int) - P1.1) p) % (p : Int) := by
    unfold slope
    split <;> rw [cast_imod _ p (by omega), modInv_eq_invMod _ p hp]
    rw [mul_assoc, ← pow_two]
  simp only [pointAdd, thirdPoint, cast_imod _ p (by omega : 0 < p), hslope]
  simp only [imod, ← pow_two]
  rfl

/-- A curve that passed the check has a modulus of at least 2 (R100). -/
theorem two_le_of_curveCheck {p a b : Nat} (h : curveCheck p a b = none) : 2 ≤ p := by
  by_contra hlt
  rw [curveCheck, if_pos (by omega)] at h
  cases h

/-- Settles O29: the model's sum is the source's `add`, since a curve's p is at least 2. -/
theorem paddResult : Obligations.PaddResult := by
  intro rd rs1 rs2 s hwf hvalid hcurve
  rw [exec_padd rd rs1 rs2 s hwf hvalid, pointAdd_eq_addPoints _ _ _ _ (two_le_of_curveCheck (hcurve.1 hvalid))]
  rfl

end Sys2Proof.Machine
end

section
/-! SUPPORT. ModSqrt by its branches: the closed forms of the deterministic ones, and the loop over the draws
(spec/40_modarith.md R84 to R87). -/

open Sys2Proof.Spec

namespace Sys2Proof.Machine

variable {g p cap : Nat} {ent : Entropy}

/-! ## The branches (R84) -/

theorem modSqrt_modulus (hp : p < 3 ∨ p % 2 = 0) : modSqrt g p cap ent = .failed .modulus 0 ent := if_pos hp

theorem modSqrt_threeModFour (hp : p % 4 = 3) : modSqrt g p cap ent = sqrtA g p ent := by
  rw [modSqrt, if_neg (by omega), if_pos hp]

theorem modSqrt_fiveModEight (hp : p % 8 = 5) : modSqrt g p cap ent = sqrtB g p ent := by
  rw [modSqrt, if_neg (by omega), if_neg (by omega), if_pos hp]

theorem modSqrt_oneModEight (hp3 : 3 ≤ p) (hp : p % 8 = 1) : modSqrt g p cap ent = sqrtC g p cap ent := by
  rw [modSqrt, if_neg (by omega), if_neg (by omega), if_neg (by omega)]

/-! ## p ≡ 3 (mod 4) (R85) -/

/-- SqrtA tries the one candidate g^((p+1)/4). -/
theorem sqrtA_eq (hp : p % 4 = 3) :
    sqrtA g p ent =
      if (g ^ ((p + 1) / 4) % p) ^ 2 % p = g % p then .root (g ^ ((p + 1) / 4) % p) 0 ent
      else .failed .noSqrt 0 ent := by
  have hexp : (p - 3) / 4 + 1 = (p + 1) / 4 := by omega
  rw [sqrtA, hexp, modPow_natCast g ((p + 1) / 4) p (by omega), pow_two]

/-! ## p ≡ 5 (mod 8) (R86) -/

/-- SqrtB decides by g^(2u+1), with u = (p − 5)/8. -/
theorem sqrtB_eq {u : Nat} (hp : p % 8 = 5) (hu : u = (p - 5) / 8) :
    sqrtB g p ent =
      if g ^ (2 * u + 1) % p = 1 then .root (g ^ (u + 1) % p) 0 ent
      else if g ^ (2 * u + 1) % p = p - 1 then .root (2 * g % p * ((4 * g) ^ u % p) % p) 0 ent
      else .failed .noSqrt 0 ent := by
  have h4g : modPow (4 * (g : Int)) u p = (4 * g) ^ u % p := modPow_natCast (4 * g) u p (by omega)
  rw [sqrtB, ← hu, modPow_natCast g (2 * u + 1) p (by omega), modPow_natCast g (u + 1) p (by omega), h4g]

/-! ## p ≡ 1 (mod 8) (R87) -/

section
variable {X : Nat} {UV : Nat × Nat} (hp : p % 8 = 1) (hUV : UV = lucas X g ((p + 1) / 2) p)
include hp hUV

/-- One attempt by its Lucas pair of index (p + 1)/2. -/
theorem sqrtAttempt_eq :
    sqrtAttempt g p X =
      if UV.2 * UV.2 % p = 4 * g % p then .success (UV.2 * modInv 2 p % p)
      else if UV.1 ≠ 1 ∧ UV.1 ≠ p - 1 then .nonResidue
      else .retry := by
  have hindex : 4 * ((p - 1) / 8) + 1 = (p + 1) / 2 := by omega
  rw [sqrtAttempt, hindex, ← hUV]

theorem sqrtAttempt_success (hp3 : 3 ≤ p) (hroot : UV.2 ^ 2 % p = 4 * g % p) :
    sqrtAttempt g p X = .success (UV.2 * invMod 2 p % p) := by
  rw [sqrtAttempt_eq hp hUV, if_pos (pow_two UV.2 ▸ hroot), modInv_eq_invMod 2 p (by omega)]

theorem sqrtAttempt_nonResidue (hroot : UV.2 ^ 2 % p ≠ 4 * g % p) (h1 : UV.1 ≠ 1) (hlast : UV.1 ≠ p - 1) :
    sqrtAttempt g p X = .nonResidue := by
  rw [sqrtAttempt_eq hp hUV, if_neg (pow_two UV.2 ▸ hroot), if_pos ⟨h1, hlast⟩]

theorem sqrtAttempt_retry (hroot : UV.2 ^ 2 % p ≠ 4 * g % p) (h : UV.1 = 1 ∨ UV.1 = p - 1) :
    sqrtAttempt g p X = .retry := by
  rw [sqrtAttempt_eq hp hUV, if_neg (pow_two UV.2 ▸ hroot), if_neg (by tauto)]

end

/-- Inconclusive draws are used up one by one, each an attempt. -/
theorem sqrtCLoop_retry {xs : List Nat} (hxs : ∀ x ∈ xs, sqrtAttempt g p (x % p) = .retry) (rest : List Nat)
    (left t drawn : Nat) :
    sqrtCLoop g p (xs.length + left) t ⟨xs ++ rest, drawn⟩ =
      sqrtCLoop g p left (t + xs.length) ⟨rest, drawn + xs.length⟩ := by
  induction xs generalizing t drawn with
  | nil => rw [List.length_nil, Nat.zero_add]; rfl
  | cons x xs ih =>
    obtain ⟨hx, hxs⟩ := List.forall_mem_cons.mp hxs
    rw [List.length_cons, Nat.add_right_comm, sqrtCLoop]
    simp only [draw, List.cons_append, hx]
    rw [ih hxs, Nat.add_right_comm t, Nat.add_right_comm drawn]
    rfl

section
variable {xs rest : List Nat} (hxs : ∀ x ∈ xs, sqrtAttempt g p (x % p) = .retry)
include hxs

/-- After inconclusive draws, with an attempt left, the next draw is tried. -/
theorem sqrtC_draw {x : Nat} (hsupply : ent.supply = xs ++ x :: rest) (hleft : xs.length < cap) :
    ∃ left, sqrtC g p cap ent = sqrtCLoop g p (left + 1) xs.length ⟨x :: rest, ent.drawn + xs.length⟩ := by
  refine ⟨cap - xs.length - 1, ?_⟩
  have hcap : cap = xs.length + (cap - xs.length - 1 + 1) := by omega
  have hent : ent = ⟨xs ++ x :: rest, ent.drawn⟩ := by rw [← hsupply]
  conv_lhs => rw [sqrtC, hcap, hent]
  rw [sqrtCLoop_retry hxs, Nat.zero_add]

theorem sqrtC_success {x y : Nat} (hsupply : ent.supply = xs ++ x :: rest) (hleft : xs.length < cap)
    (hx : sqrtAttempt g p (x % p) = .success y) :
    sqrtC g p cap ent = .root y (xs.length + 1) ⟨rest, ent.drawn + xs.length + 1⟩ := by
  obtain ⟨left, hdraw⟩ := sqrtC_draw hxs hsupply hleft
  rw [hdraw, sqrtCLoop]
  simp only [draw, hx]

theorem sqrtC_nonResidue {x : Nat} (hsupply : ent.supply = xs ++ x :: rest) (hleft : xs.length < cap)
    (hx : sqrtAttempt g p (x % p) = .nonResidue) :
    sqrtC g p cap ent = .failed .noSqrt (xs.length + 1) ⟨rest, ent.drawn + xs.length + 1⟩ := by
  obtain ⟨left, hdraw⟩ := sqrtC_draw hxs hsupply hleft
  rw [hdraw, sqrtCLoop]
  simp only [draw, hx]

/-- When every attempt was inconclusive, the error is SQRT_ITER. -/
theorem sqrtC_exhausted (hsupply : ent.supply = xs ++ rest) (hleft : xs.length = cap) :
    sqrtC g p cap ent = .failed .sqrtIter cap ⟨rest, ent.drawn + xs.length⟩ := by
  have hent : ent = ⟨xs ++ rest, ent.drawn⟩ := by rw [← hsupply]
  conv_lhs => rw [sqrtC, ← hleft, hent]
  have hloop := sqrtCLoop_retry hxs rest 0 0 ent.drawn
  rw [Nat.add_zero, Nat.zero_add, hleft] at hloop
  rw [hleft, hloop]; rfl

end

end Sys2Proof.Machine
end

section
/-! PROOFS. YFROMX is MODSQRT of the right-hand side of the curve (spec/41_ecc.md R107). -/

open Sys2Proof.Spec

namespace Sys2Proof.Machine

/-- The states the end of a root command answers, in the words of the statements. -/
theorem finishSqrt_root (rd : BReg) (s : State) (y t : Nat) (ent : Entropy) :
    finishSqrt rd (.root y t ent) s =
      .next (wrote { s with sqrtIterUsed := BitVec.ofNat 16 t, entropy := ent } rd y) := rfl

theorem finishSqrt_failed (rd : BReg) (s : State) (e : ErrCode) (t : Nat) (ent : Entropy) :
    finishSqrt rd (.failed e t ent) s =
      .next (failed { s with sqrtIterUsed := BitVec.ofNat 16 t, entropy := ent } e) := rfl

/-- With a curve, YFROMX is ModSqrt of the right-hand side (R107). -/
theorem exec_yfromx (rd rs1 : BReg) {s : State} {g p : Nat} (hvalid : s.curveValid = true) (hp : p = s.curveP.toNat)
    (hg : g = (s.num rs1 ^ 3 + s.curveA.toNat * s.num rs1 + s.curveB.toNat) % p) :
    exec (.yfromx rd rs1) s = finishSqrt rd (modSqrt g p s.sqrtIterMax.toNat s.entropy) s := by
  have hrhs : curveRhs (s.num rs1) s.curveA.toNat s.curveB.toNat s.curveP.toNat = g := by
    rw [hg, hp, curveRhs, pow_succ, pow_two]
  rw [exec, execYfromx, if_pos hvalid, hrhs, hp]

/-- Settles O35: both commands are the end of `modSqrt`, whose branches have their closed forms. -/
theorem yfromxIsModsqrtOfTheRightHandSide : Obligations.YfromxIsModsqrtOfTheRightHandSide := by
  intro rd rs1 s g p u hvalid hp hg hu
  have hexec := exec_yfromx rd rs1 hvalid hp hg
  have hgp : g % p = g := by rw [hg, Nat.mod_mod]
  rw [hexec]
  refine ⟨fun rg rp hrg hrp => ?_, fun hmod => ?_, fun h3 hroot => ?_, fun h3 hroot => ?_, fun h5 hone => ?_,
    fun h5 hlast => ?_, fun h5 hone hlast => ?_, fun UV xs rest hp3 h1 hUV hxs => ?_⟩
  · rw [exec, execModsqrt, hrg, hrp]
  · rw [modSqrt_modulus hmod, finishSqrt_failed]
  · rw [modSqrt_threeModFour h3, sqrtA_eq h3, if_pos (hroot.trans hgp.symm), finishSqrt_root]
  · rw [modSqrt_threeModFour h3, sqrtA_eq h3, if_neg (hgp.symm ▸ hroot), finishSqrt_failed]
  · rw [modSqrt_fiveModEight h5, sqrtB_eq h5 hu, if_pos hone, finishSqrt_root]
  · have hone : g ^ (2 * u + 1) % p ≠ 1 := by omega
    rw [modSqrt_fiveModEight h5, sqrtB_eq h5 hu, if_neg hone, if_pos hlast, finishSqrt_root]
  · rw [modSqrt_fiveModEight h5, sqrtB_eq h5 hu, if_neg hone, if_neg hlast, finishSqrt_failed]
  · have hretry : ∀ x ∈ xs, sqrtAttempt g p (x % p) = .retry := fun x hx =>
      sqrtAttempt_retry h1 (hUV x) (hxs x hx).1 (hxs x hx).2
    rw [modSqrt_oneModEight hp3 h1]
    refine ⟨fun x hsupply hleft hroot => ?_, fun x hsupply hleft hroot hone hlast => ?_, fun hsupply hall => ?_⟩
    · rw [sqrtC_success hretry hsupply hleft (sqrtAttempt_success h1 (hUV x) hp3 hroot), finishSqrt_root]
    · rw [sqrtC_nonResidue hretry hsupply hleft (sqrtAttempt_nonResidue h1 (hUV x) hroot hone hlast), finishSqrt_failed]
    · rw [sqrtC_exhausted hretry hsupply hall, finishSqrt_failed, BitVec.ofNat_toNat, BitVec.setWidth_eq]

end Sys2Proof.Machine
end

section
/-! PROOFS. MODSQRT for p ≡ 1 (mod 8) is the loop over the draws (spec/40_modarith.md R87, R90). -/

open Sys2Proof.Spec

namespace Sys2Proof.Machine

/-- For p ≡ 1 (mod 8), MODSQRT ends with the outcome of SqrtC (R84, R90). -/
theorem exec_modsqrt_oneModEight (rd rs1 rs2 : BReg) {s : State} (hp3 : 3 ≤ s.num rs2) (h1 : s.num rs2 % 8 = 1) :
    exec (.modsqrt rd rs1 rs2) s =
      finishSqrt rd (sqrtC (s.num rs1) (s.num rs2) s.sqrtIterMax.toNat s.entropy) s := by
  rw [exec, execModsqrt, modSqrt_oneModEight hp3 h1]

/-- Settles O25: the draws `xs` are used up by retries; then the next draw decides, or the attempts are exhausted. -/
theorem probabilisticRootFollowsTheDraws : Obligations.ProbabilisticRootFollowsTheDraws := by
  rintro rd rs1 rs2 s g p UV xs rest rfl rfl hp3 h1 hUV hxs
  have hretry : ∀ x ∈ xs, sqrtAttempt (s.num rs1) (s.num rs2) (x % s.num rs2) = .retry := fun x hx =>
    sqrtAttempt_retry h1 (hUV x) (hxs x hx).1 (hxs x hx).2
  rw [exec_modsqrt_oneModEight rd rs1 rs2 hp3 h1]
  refine ⟨fun x hsupply hleft hroot => ?_, fun x hsupply hleft hroot hone hlast => ?_, fun hsupply hall => ?_⟩
  · rw [sqrtC_success hretry hsupply hleft (sqrtAttempt_success h1 (hUV x) hp3 hroot), finishSqrt_root]
  · rw [sqrtC_nonResidue hretry hsupply hleft (sqrtAttempt_nonResidue h1 (hUV x) hroot hone hlast), finishSqrt_failed]
  · rw [sqrtC_exhausted hretry hsupply hall, finishSqrt_failed, BitVec.ofNat_toNat, BitVec.setWidth_eq]

end Sys2Proof.Machine
end

section
/-! PROOFS. The ranges of the codec commands and the ill-formed host accesses (spec/20_memory.md R52, R56, R57;
spec/42_codecs.md R133, R137). -/

namespace Sys2Proof.Machine

/-! ## The input range (R56, R133) -/

theorem withSrc_bounds {s : State} (h : Config.bmemSize < s.srcAddr.toNat + s.srcLen.toNat) (k : List Byte → Result) :
    withSrc s k = raise .bounds s := if_pos h

/-- Settles O47: CheckSrc comes first in every command that reads BMEM. -/
theorem inputPastBmemIsBounds : Obligations.InputPastBmemIsBounds := by
  intro i s hreads hpast
  obtain ⟨k, hk⟩ := exec_eq_withSrc hreads s
  rw [hk, withSrc_bounds hpast]
  rfl

/-! ## Codec commands that complete without error (R57, R133) -/

/-- A command that completes without error after CheckSrc has read its input. -/
theorem withSrc_noError {s t : State} {k : List Byte → Result} (h : withSrc s k = .next t) (hok : t.errcode = .none) :
    ∃ bs, s.bmem.readBytes s.srcAddr.toNat s.srcLen.toNat = .ok bs ∧ k bs = .next t := by
  rcases withSrc_cases s k with ⟨-, heq⟩ | ⟨-, a, -, -, -, heq⟩ | ⟨-, bs, hread, heq⟩ <;> rw [heq] at h
  · cases h; cases hok
  · cases h
  · exact ⟨bs, hread, h⟩

theorem deliver_noError {s t : State} {out : List Byte} (h : deliver s out = .next t) (hok : t.errcode = .none) :
    t = (s.storeOutput out).completed .none := by
  rcases deliver_cases s out with ⟨-, heq⟩ | ⟨-, heq⟩ <;> rw [heq] at h
  · cases h; cases hok
  · exact (succeed_eq _ _).mp h

/-- A codec whose function raises only codes of R136 and that completes without error has stored the function's value on
its input. -/
theorem codec_noError {f : List Byte → Except ErrCode (List Byte)} (hf : ∀ bs e, f bs = .error e → e ≠ .none)
    {s t : State} (h : codec f s = .next t) (hok : t.errcode = .none) :
    ∃ bs out, s.bmem.readBytes s.srcAddr.toNat s.srcLen.toNat = .ok bs ∧ f bs = .ok out ∧
      t = (s.storeOutput out).completed .none := by
  obtain ⟨bs, hread, hcodec⟩ := withSrc_noError h hok
  rw [codecOn] at hcodec
  cases hfun : f bs with
  | error e =>
    rw [hfun] at hcodec
    cases hcodec
    exact absurd hok (hf bs e hfun)
  | ok out =>
    rw [hfun] at hcodec
    exact ⟨bs, out, hread, hfun, deliver_noError hcodec hok⟩

/-- A B2I that completes without error has loaded the value of its input (R126). -/
theorem execB2i_noError {rd : BReg} {s t : State} (h : execB2i rd s = .next t) (hok : t.errcode = .none) :
    ∃ bs v, s.bmem.readBytes s.srcAddr.toNat s.srcLen.toNat = .ok bs ∧ bytesToInt bs = .ok v ∧
      t = (s.setNum rd v).completed .none := by
  obtain ⟨bs, hread, hload⟩ := withSrc_noError h hok
  rw [loadInteger] at hload
  cases hvalue : bytesToInt bs with
  | error e =>
    rw [hvalue] at hload
    cases hload
    exact absurd hok (bytesToInt_error bs e hvalue)
  | ok v =>
    rw [hvalue] at hload
    exact ⟨bs, v, hread, hvalue, (succeed_eq _ _).mp hload⟩

/-- The commands that read BMEM: B2I, which writes a register, and the codecs from BMEM to BMEM. -/
theorem readsBmem_cases {i : Instr} (h : readsBmem i = true) :
    (∃ rd, i = .b2i rd) ∨
      ∃ f : List Byte → Except ErrCode (List Byte), (∀ bs e, f bs = .error e → e ≠ .none) ∧
        ∀ s, exec i s = codec f s := by
  cases i with
  | b2i rd => exact .inl ⟨rd, rfl⟩
  | b85e => exact .inr ⟨fun bs => .ok (base85Encode symSafe bs), nofun, fun _ => rfl⟩
  | a85e => exact .inr ⟨fun bs => .ok (base85Encode symAscii bs), nofun, fun _ => rfl⟩
  | b85d | a85d => exact .inr ⟨_, base85Decode_error _, fun _ => rfl⟩
  | u8e => exact .inr ⟨_, encodeText_error, fun _ => rfl⟩
  | u8d => exact .inr ⟨_, decodeText_error, fun _ => rfl⟩
  | _ => cases h

/-- Byte k of what was written at an address is byte k of the sequence, wherever it was written. -/
theorem Memory.readByte_writeBytes_add (m : Memory) (a : Nat) (bs : List Byte) {k : Nat} (hk : k < bs.length) :
    (m.writeBytes a bs).readByte (a + k) = bs[k]? := by
  rw [Memory.readByte_writeBytes, if_pos ⟨by omega, by omega⟩, Nat.add_sub_cancel_left]

/-- Settles O48: the two runs read the same input, so they have the same value to load or the same output to store. -/
theorem outputDoesNotDependOnOverlap : Obligations.OutputDoesNotDependOnOverlap := by
  intro i s t u d hreads ht htok hu huok
  obtain ⟨rd, rfl⟩ | ⟨f, hf, hcodec⟩ := readsBmem_cases hreads
  · obtain ⟨bs, v, hread, hvalue, rfl⟩ := execB2i_noError ht htok
    obtain ⟨bs', v', hread', hvalue', rfl⟩ := execB2i_noError hu huok
    obtain rfl : bs = bs' := Except.ok.inj (hread.symm.trans hread')
    obtain rfl : v = v' := Except.ok.inj (hvalue.symm.trans hvalue')
    exact ⟨rfl, rfl, nofun⟩
  · obtain ⟨bs, out, hread, hout, rfl⟩ := codec_noError hf (hcodec s ▸ ht) htok
    obtain ⟨bs', out', hread', hout', rfl⟩ := codec_noError hf (hcodec _ ▸ hu) huok
    obtain rfl : bs = bs' := Except.ok.inj (hread.symm.trans hread')
    obtain rfl : out = out' := Except.ok.inj (hout.symm.trans hout')
    refine ⟨rfl, rfl, fun _ k hk => ?_⟩
    have hlen : k < out.length := by
      rw [State.completed_outLen, State.storeOutput_outLen, BitVec.toNat_ofNat] at hk
      exact hk.trans_le (Nat.mod_le _ _)
    exact (Memory.readByte_writeBytes_add s.bmem d.toNat out hlen).trans
      (Memory.readByte_writeBytes_add s.bmem s.dstAddr.toNat out hlen).symm

/-! ## Ill-formed accesses (R52) -/

theorem not_wellFormedAccess_iff (size : AccessSize) (off : Offset) :
    ¬ wellFormedAccess size off = true ↔ size ≠ .word ∨ off.toNat % 4 ≠ 0 := by
  rw [Bool.not_eq_true, wellFormedAccess, Bool.and_eq_false_iff, beq_eq_false_iff_ne, beq_eq_false_iff_ne]

/-- Settles O54: the branch of the accesses that are not well-formed. -/
theorem illFormedAccessSetsBusErr : Obligations.IllFormedAccessSetsBusErr := by
  intro s size off rest hill
  have hwf := (not_wellFormedAccess_iff size off).mpr hill
  refine ⟨fun hagenda => ?_, fun v hagenda => ?_⟩
  · rw [step_of_cons hagenda, perform, hostRead, if_neg hwf]
  · rw [step_of_cons hagenda, perform, hostWrite, if_neg hwf]

end Sys2Proof.Machine
end

section
/-! SUPPORT. Decoding and encoding are inverse: a row of the opcode map builds a command from four fields, and the
command's word holds those fields, with 0 for an unused one (spec/30_encoding.md R70 to R76, R78). -/

namespace Sys2Proof

/-- What the word of a command holds in a field: 0 in an unused one (R74). -/
def FieldUse.encoded : FieldUse → BReg → BReg
  | .unused, _ => 0
  | .reg, r => r
  | .point, r => r

/-- R74 asks of a field that it holds what an encoding holds there. -/
theorem FieldUse.zeroOk_iff_encoded (u : FieldUse) (r : BReg) : u.zeroOk r = true ↔ u.encoded r = r := by
  cases u with
  | unused => exact beq_iff_eq.trans eq_comm
  | reg | point => exact iff_of_true rfl rfl

@[simp] theorem FieldUse.encoded_encoded (u : FieldUse) (r : BReg) : u.encoded (u.encoded r) = u.encoded r := by
  cases u <;> rfl

@[simp] theorem FieldUse.parityOk_encoded (u : FieldUse) (r : BReg) : u.parityOk (u.encoded r) = u.parityOk r := by
  cases u <;> rfl

@[simp] theorem FieldUse.parityOk_unused (r : BReg) : FieldUse.unused.parityOk r = true := rfl
@[simp] theorem FieldUse.parityOk_reg (r : BReg) : FieldUse.reg.parityOk r = true := rfl
@[simp] theorem FieldUse.parityOk_point (r : BReg) : FieldUse.point.parityOk r = r.isPoint := rfl

/-- A word whose RSV is 0 is its other fields packed (R70). -/
theorem packWord_fields {w : Word} (hrsv : rsvField w = 0#8) :
    packWord (opcField w) (rdField w) (rs1Field w) (rs2Field w) (rs3Field w) = w := by
  simp [word_eq_iff_fields, hrsv]

/-! ## The command a row builds from four fields -/

/-- Every command is built by its row. -/
theorem Instr.exists_eq_build (i : Instr) : ∃ o rd rs1 rs2 rs3, i = Opcode.build o rd rs1 rs2 rs3 := by
  cases i with
  | modexp rd rs1 rs2 rs3 => exact ⟨.modexp, rd, rs1, rs2, rs3, rfl⟩
  | modinv rd rs1 rs2 => exact ⟨.modinv, rd, rs1, rs2, 0, rfl⟩
  | modsqrt rd rs1 rs2 => exact ⟨.modsqrt, rd, rs1, rs2, 0, rfl⟩
  | curveset rs1 rs2 rs3 => exact ⟨.curveset, 0, rs1, rs2, rs3, rfl⟩
  | padd rd rs1 rs2 => exact ⟨.padd, rd, rs1, rs2, 0, rfl⟩
  | pdbl rd rs1 => exact ⟨.pdbl, rd, rs1, 0, 0, rfl⟩
  | pmul rd rs1 rs2 => exact ⟨.pmul, rd, rs1, rs2, 0, rfl⟩
  | yfromx rd rs1 => exact ⟨.yfromx, rd, rs1, 0, 0, rfl⟩
  | i2b rs1 => exact ⟨.i2b, 0, rs1, 0, 0, rfl⟩
  | b2i rd => exact ⟨.b2i, rd, 0, 0, 0, rfl⟩
  | b85e => exact ⟨.b85e, 0, 0, 0, 0, rfl⟩
  | b85d => exact ⟨.b85d, 0, 0, 0, 0, rfl⟩
  | a85e => exact ⟨.a85e, 0, 0, 0, 0, rfl⟩
  | a85d => exact ⟨.a85d, 0, 0, 0, 0, rfl⟩
  | u8e => exact ⟨.u8e, 0, 0, 0, 0, rfl⟩
  | u8d => exact ⟨.u8d, 0, 0, 0, 0, rfl⟩

section
variable (o : Opcode) (rd rs1 rs2 rs3 : BReg)

/-- The word of the built command: the row's opcode and the fields, unused ones at 0 (R70, R72, R74). -/
theorem encode_build :
    encode (o.build rd rs1 rs2 rs3) =
      packWord o.code (o.uses.rd.encoded rd) (o.uses.rs1.encoded rs1) (o.uses.rs2.encoded rs2)
        (o.uses.rs3.encoded rs3) := by
  cases o <;> rfl

/-- An unused field has no part in the built command (R72). -/
theorem Opcode.build_encoded :
    o.build (o.uses.rd.encoded rd) (o.uses.rs1.encoded rs1) (o.uses.rs2.encoded rs2) (o.uses.rs3.encoded rs3) =
      o.build rd rs1 rs2 rs3 := by
  cases o <;> rfl

/-- The built command is well formed when its fields pass R75. -/
theorem wellFormed_build :
    (o.build rd rs1 rs2 rs3).wellFormed =
      (o.uses.rd.parityOk rd && o.uses.rs1.parityOk rs1 && o.uses.rs2.parityOk rs2 && o.uses.rs3.parityOk rs3) := by
  cases o <;> simp [Instr.wellFormed, Instr.pointFields, Opcode.build, Opcode.uses, Bool.and_assoc]

/-- The word of the built command passes R74. -/
theorem zeroFieldsOk_encode_build : zeroFieldsOk o (encode (o.build rd rs1 rs2 rs3)) = true := by
  simp [zeroFieldsOk, encode_build, FieldUse.zeroOk_iff_encoded]

/-- It passes R75 when the command is well formed. -/
theorem pointFieldsOk_encode_build :
    pointFieldsOk o (encode (o.build rd rs1 rs2 rs3)) = (o.build rd rs1 rs2 rs3).wellFormed := by
  simp [pointFieldsOk, encode_build, wellFormed_build]

end

/-- A word that passes R74 is the encoding of the command its row builds from its fields. -/
theorem encode_build_fields {o : Opcode} {w : Word} (hopc : opcField w = o.code) (hzero : zeroFieldsOk o w = true) :
    encode (o.build (rdField w) (rs1Field w) (rs2Field w) (rs3Field w)) = w := by
  simp only [zeroFieldsOk, Bool.and_eq_true, beq_iff_eq, FieldUse.zeroOk_iff_encoded] at hzero
  obtain ⟨⟨⟨⟨hrsv, hrd⟩, hrs1⟩, hrs2⟩, hrs3⟩ := hzero
  rw [encode_build, hrd, hrs1, hrs2, hrs3, ← hopc, packWord_fields hrsv]

end Sys2Proof
end

section
/-! PROOFS. A word decodes to a command exactly when it is the word of that command and the command is well formed
(spec/30_encoding.md R70 to R78), and a word of no row is issued and completes with its error (R73). -/

open Sys2Proof.Spec

namespace Sys2Proof.Machine

/-! ## Decoding and encoding (R70, R72, R74, R75, R78) -/

theorem decode_encode {i : Instr} (hwf : i.wellFormed = true) : decode (encode i) = .ok i := by
  obtain ⟨o, rd, rs1, rs2, rs3, rfl⟩ := i.exists_eq_build
  have hopc : opcField (encode (o.build rd rs1 rs2 rs3)) = o.code := by rw [encode_build, opcField_packWord]
  rw [decode_of_opcode hopc, if_pos (zeroFieldsOk_encode_build ..), if_pos (pointFieldsOk_encode_build .. ▸ hwf)]
  simp only [encode_build, rdField_packWord, rs1Field_packWord, rs2Field_packWord, rs3Field_packWord,
    Opcode.build_encoded]

/-- A word that decodes passes R74 and R75, and its command is the one its row builds from its fields. -/
theorem exists_opcode_of_decode {w : Word} {i : Instr} (h : decode w = .ok i) :
    ∃ o : Opcode, opcField w = o.code ∧ zeroFieldsOk o w = true ∧ pointFieldsOk o w = true ∧
      i = o.build (rdField w) (rs1Field w) (rs2Field w) (rs3Field w) := by
  have hopc := opcField_of_decode w i h
  rw [decode_of_opcode hopc] at h
  split at h
  next hzero =>
    split at h
    next hpoint => exact ⟨_, hopc, hzero, hpoint, (Except.ok.inj h).symm⟩
    next => cases h
  next => cases h

/-- "Every legal command has exactly one encoding" (D12), and decoding inverts it. -/
theorem decode_eq_ok_iff {w : Word} {i : Instr} : decode w = .ok i ↔ encode i = w ∧ i.wellFormed = true := by
  constructor
  · intro h
    obtain ⟨o, hopc, hzero, hpoint, rfl⟩ := exists_opcode_of_decode h
    have hword := encode_build_fields hopc hzero
    exact ⟨hword, by rw [← pointFieldsOk_encode_build, hword, hpoint]⟩
  · rintro ⟨rfl, hwf⟩
    exact decode_encode hwf

/-- Settles O2: the word of a command passes R74 always and R75 when the command is well formed, and its fields build
the command again. -/
theorem decodeOfEncodeIsTheCommand : Obligations.DecodeOfEncodeIsTheCommand := fun _ => decode_encode

/-- Settles O3: R74 leaves a word no bit that its command does not fix, and R75 makes the command well formed. -/
theorem encodeOfDecodeIsTheWord : Obligations.EncodeOfDecodeIsTheWord := fun _ _ => decode_eq_ok_iff.mp

/-- Settles O1: each word is the encoding of its command, and each command is well formed. -/
theorem writtenOutWordsDecode : Obligations.WrittenOutWordsDecode := by
  simp only [Obligations.WrittenOutWordsDecode, decode_eq_ok_iff]
  decide

/-! ## A word of no row (R73) -/

/-- The rejection of a word of no row writes nothing but the completion: no draw count either (R36, R73). -/
theorem rejectCommand_of_illegalOpcode {s : State} (h : opcField s.cmd ∉ opcodes) (e : DecodeError) :
    rejectCommand e s = .next (s.completed (decodeErrCode e)) := by
  have hdraws : countsDraws s.cmd = false := by rw [countsDraws, ofCode_of_illegalOpcode h]; rfl
  rw [rejectCommand, hdraws]
  rfl

/-- The engine's turn on a word of no row is its completion with ILLEGAL_OPCODE (R73). -/
theorem engineTurn_of_illegalOpcode {s : State} (hbusy : s.phase = .busy) (h : opcField s.cmd ∉ opcodes) :
    engineTurn s = .next (s.completed .illegalOpcode) := by
  rw [engineTurn_busy hbusy, completion_error (decode_of_illegalOpcode h), rejectCommand_of_illegalOpcode h]
  rfl

/-- Settles O5: the write to CMD issues the word as any other (O56), and the engine's turn rejects it. -/
theorem illegalOpcodeIsAcceptedAndCompletes : Obligations.IllegalOpcodeIsAcceptedAndCompletes := by
  intro s w rest hidle hagenda hopc
  refine ⟨_, rfl, (idleWritesTakeEffect s w _ hidle).1 hagenda, ?_⟩
  rw [step_of_cons rfl]
  exact engineTurn_of_illegalOpcode (s := { s.issued w with agenda := rest }) rfl hopc

end Sys2Proof.Machine
end

section
/-! PROOFS. MODEXP and MODINV: the loop of R81 is the power with the reduced exponent, and over a prime MODINV is the
inverse (spec/40_modarith.md R81, R82, R88, R89, R91). -/

open Sys2Proof.Spec

namespace Sys2Proof.Machine

/-- Only the reduced exponent counts (R81). -/
theorem modPow_reduced (b : Int) (e m : Nat) : modPow b (e % (m - 1)) m = modPow b e m := by
  simp only [modPow, Nat.mod_mod]

/-- ModPow is the closed form of R81: the reduced exponent is below m − 1, and the base counts only mod m. -/
theorem modPow_eq_powMod (b : Int) (e m : Nat) (hm : 2 ≤ m) : modPow b e m = powMod b e m := by
  unfold powMod
  split
  case isTrue hzero => exact if_pos hzero
  case isFalse =>
    have hbase : (b % (m : Int)) ^ (e % (m - 1)) % m = b ^ (e % (m - 1)) % m := (Int.mod_modEq b m).pow _
    rw [← modPow_reduced, modPow_eq_emod b _ m (Nat.mod_lt _ (by omega)), hbase]

/-- Settles O19: the loop computes the power, and every round reduces it. -/
theorem modPowIsThePowerWithReducedExponent : Obligations.ModPowIsThePowerWithReducedExponent :=
  fun b e m hm => ⟨modPow_eq_powMod b e m hm, modPow_lt b e m hm⟩

/-- Settles O20: the two branches of MODEXP, with the closed form of ModPow. -/
theorem modexpResult : Obligations.ModexpResult := by
  refine fun rd rs1 rs2 rs3 s => ⟨fun hm => ?_, fun hm => if_pos hm⟩
  rw [exec, execModexp, if_neg (by omega), modPow_eq_powMod _ _ _ hm]
  rfl

/-- MODINV with a modulus of at least 2 writes ModInv and completes without error (R89). -/
theorem exec_modinv (rd rs1 rs2 : BReg) {s : State} (hp : 2 ≤ s.num rs2) :
    exec (.modinv rd rs1 rs2) s = succeed (s.setNum rd (modInv (s.num rs1) (s.num rs2))) := by
  rw [exec, execModinv, if_neg (by omega)]

/-- Settles O21: the two branches of MODINV, with the closed form of ModInv. -/
theorem modinvResult : Obligations.ModinvResult := by
  refine fun rd rs1 rs2 s => ⟨fun hp => ?_, fun hp => if_pos hp⟩
  rw [exec_modinv rd rs1 rs2 hp, modInv_eq_invMod _ _ hp]
  rfl

/-- A number below another register's value fits a register and is read back (R91 a). -/
theorem State.num_setNum_same {s : State} {rd : BReg} {v : Nat} (h : v < 2 ^ 256) : (s.setNum rd v).num rd = v := by
  rw [State.num_setNum, if_pos rfl, Nat.mod_eq_of_lt h]

/-- Over a prime, ModInv inverts every g that p does not divide (R82). -/
theorem mul_modInv_mod {g p : Nat} (hp : p.Prime) (hg : ¬ p ∣ g) : g * modInv g p % p = 1 := by
  have : Fact p.Prime := ⟨hp⟩
  have hne : ((g : Int) : ZMod p) ≠ 0 := by rwa [Int.cast_natCast, Ne, ZMod.natCast_eq_zero_iff]
  have hcast : ((g * modInv g p : Nat) : ZMod p) = (1 : Nat) := by
    rw [Nat.cast_mul, natCast_modInv _ p hne, Int.cast_natCast, Nat.cast_one]
    exact mul_inv_cancel₀ (by simpa using hne)
  rw [(ZMod.natCast_eq_natCast_iff' _ _ _).mp hcast, Nat.mod_eq_of_lt hp.one_lt]

/-- Settles O22: by Fermat's little theorem, and since ModInv is below p, which fits a register. -/
theorem modinvInvertsModuloPrimes : Obligations.ModinvInvertsModuloPrimes := by
  intro rd rs1 rs2 s hp hg
  have hlt : modInv (s.num rs1) (s.num rs2) < s.num rs2 := modPow_lt _ _ _ hp.two_le
  refine ⟨_, exec_modinv rd rs1 rs2 hp.two_le, rfl, ?_⟩
  rw [State.num_completed, State.num_setNum_same (hlt.trans (s.num_lt rs2))]
  exact ⟨hlt, mul_modInv_mod hp hg⟩

end Sys2Proof.Machine
end

section
/-! SUPPORT. The Lucas sequences of R83 over the integers: the addition law, of which the procedure's steps m -> 2m and
m -> m+1 are cases (spec/40_modarith.md R83). -/

open Sys2Proof.Spec

namespace Sys2Proof.Machine

variable (X Y : Int)

/-- The sequence U_0 = 0, U_1 = 1 of R83. -/
abbrev lucasU (n : Nat) : Int := lucasSeq X Y 0 1 n

/-- The sequence V_0 = 2, V_1 = X of R83. -/
abbrev lucasV (n : Nat) : Int := lucasSeq X Y 2 X n

theorem lucasSeq_add_two (w0 w1 : Int) (n : Nat) :
    lucasSeq X Y w0 w1 (n + 2) = X * lucasSeq X Y w0 w1 (n + 1) - Y * lucasSeq X Y w0 w1 n := rfl

/-- The step from n to n + 1, of both sequences at once. -/
theorem lucas_succ (n : Nat) :
    2 * lucasU X Y (n + 1) = X * lucasU X Y n + lucasV X Y n ∧
    2 * lucasV X Y (n + 1) = X * lucasV X Y n + (X * X - 4 * Y) * lucasU X Y n := by
  induction n using Nat.twoStepInduction with
  | zero =>
    simp only [lucasSeq, Nat.zero_add]
    constructor <;> ring
  | one =>
    simp only [lucasSeq, Nat.reduceAdd]
    constructor <;> ring
  | more n ih0 ih1 =>
    obtain ⟨hU0, hV0⟩ := ih0
    obtain ⟨hU1, hV1⟩ := ih1
    simp only [lucasSeq_add_two] at *
    constructor
    · linear_combination X * hU1 - Y * hU0
    · linear_combination X * hV1 - Y * hV0

/-- The addition law, by induction on n: both sides satisfy the recurrence in n. -/
theorem lucas_add (m n : Nat) :
    2 * lucasU X Y (m + n) = lucasU X Y m * lucasV X Y n + lucasV X Y m * lucasU X Y n ∧
    2 * lucasV X Y (m + n) = lucasV X Y m * lucasV X Y n + (X * X - 4 * Y) * (lucasU X Y m * lucasU X Y n) := by
  induction n using Nat.twoStepInduction with
  | zero =>
    simp only [lucasSeq, Nat.add_zero]
    constructor <;> ring
  | one =>
    obtain ⟨hU, hV⟩ := lucas_succ X Y m
    simp only [lucasSeq]
    constructor
    · linear_combination hU
    · linear_combination hV
  | more n ih0 ih1 =>
    obtain ⟨hU0, hV0⟩ := ih0
    obtain ⟨hU1, hV1⟩ := ih1
    simp only [← Nat.add_assoc, lucasSeq_add_two] at *
    constructor
    · linear_combination X * hU1 - Y * hU0
    · linear_combination X * hV1 - Y * hV0

/-- The doubling identities of R83. -/
theorem lucas_double (n : Nat) :
    lucasU X Y (2 * n) = lucasU X Y n * lucasV X Y n ∧
    2 * lucasV X Y (2 * n) =
      lucasV X Y n * lucasV X Y n + (X * X - 4 * Y) * lucasU X Y n * lucasU X Y n := by
  obtain ⟨hU, hV⟩ := lucas_add X Y n n
  rw [← two_mul] at hU hV
  exact ⟨by linarith, by rw [hV, ← mul_assoc]⟩

end Sys2Proof.Machine
end

section
/-! PROOFS. The procedure of R83 computes the Lucas pair of its index modulo every odd prime
(spec/40_modarith.md R83). -/

open Sys2Proof.Spec

namespace Sys2Proof.Machine

/-- The Lucas pair is the floor remainders of U_k and V_k (R83). -/
theorem lucasPair_eq (X Y k p : Nat) : lucasPair X Y k p = (imod (lucasU X Y k) p, imod (lucasV X Y k) p) := rfl

/-- A remainder is the floor remainder of an integer of the same residue (R7). -/
theorem mod_eq_imod {n p : Nat} {x : Int} (hp : 0 < p) (h : (n : ZMod p) = (x : ZMod p)) : n % p = imod x p := by
  refine CharP.natCast_injOn_Iio (ZMod p) p (Nat.mod_lt n hp) (imod_lt x p hp) ?_
  rw [ZMod.natCast_mod, natCast_imod x p hp, h]

theorem natCast_lucasDisc (X Y : Nat) {p : Nat} (hp : 0 < p) : (lucasDisc X Y p : ZMod p) = X * X - 4 * Y := by
  rw [lucasDisc, natCast_imod _ p hp]
  push_cast
  rfl

section
variable {p : Nat} [Fact p.Prime] (hp2 : p ≠ 2)
include hp2

theorem two_ne_zero_zmod : (2 : ZMod p) ≠ 0 := Ring.two_ne_zero (by rwa [ZMod.ringChar_zmod_n])

/-- "All divisions by 2 are performed as multiplication by modInv(2, p)" (R83): for an odd prime that is what they
are. -/
theorem mul_modInv_two {a x : ZMod p} (h : 2 * x = a) : a * (modInv 2 p : Nat) = x := by
  have hne : ((2 : Int) : ZMod p) ≠ 0 := by exact_mod_cast two_ne_zero_zmod hp2
  rw [natCast_modInv 2 p hne, ← h]
  push_cast
  field_simp [two_ne_zero_zmod hp2]

variable (X Y : Nat)

/-- The step m -> 2m of the procedure. -/
theorem lucasDouble_lucasPair (j : Nat) :
    lucasDouble (lucasDisc X Y p) (modInv 2 p) p (lucasPair X Y j p) = lucasPair X Y (2 * j) p := by
  have hp : 0 < p := Nat.Prime.pos Fact.out
  obtain ⟨hU, hV⟩ := lucas_double X Y j
  rw [lucasPair_eq, lucasPair_eq]
  refine Prod.ext (mod_eq_imod hp ?_) (mod_eq_imod hp ?_)
  · rw [hU]
    push_cast [natCast_imod _ p hp]
    rfl
  · push_cast [natCast_imod _ p hp, natCast_lucasDisc X Y hp]
    exact mul_modInv_two hp2 (by exact_mod_cast congrArg (Int.cast : Int → ZMod p) hV)

/-- The step m -> m+1 of the procedure. -/
theorem lucasNext_lucasPair (j : Nat) :
    lucasNext X (lucasDisc X Y p) (modInv 2 p) p (lucasPair X Y j p) = lucasPair X Y (j + 1) p := by
  have hp : 0 < p := Nat.Prime.pos Fact.out
  obtain ⟨hU, hV⟩ := lucas_succ X Y j
  rw [lucasPair_eq, lucasPair_eq]
  refine Prod.ext (mod_eq_imod hp ?_) (mod_eq_imod hp ?_) <;> push_cast [natCast_imod _ p hp, natCast_lucasDisc X Y hp]
  · exact mul_modInv_two hp2 (by exact_mod_cast congrArg (Int.cast : Int → ZMod p) hU)
  · exact mul_modInv_two hp2 (by exact_mod_cast congrArg (Int.cast : Int → ZMod p) hV)

/-- i rounds append the low i bits of k to the index. -/
theorem lucasLoop_lucasPair (k i j : Nat) :
    lucasLoop X (lucasDisc X Y p) (modInv 2 p) p k i (lucasPair X Y j p) = lucasPair X Y (j * 2 ^ i + k % 2 ^ i) p := by
  induction i generalizing j with
  | zero => simp [lucasLoop, Nat.mod_one]
  | succ i ih =>
    rw [lucasLoop, lucasDouble_lucasPair hp2, mod_two_pow_succ_testBit]
    split
    · rw [lucasNext_lucasPair hp2, ih]
      congr 1
      ring
    · rw [ih]
      congr 1
      ring

end

/-- A positive number is its leading 1 on top of the bits below it (R8). -/
theorem leadingBit_add_mod {k : Nat} (hk : 1 ≤ k) : 2 ^ (bitlen k - 1) + k % 2 ^ (bitlen k - 1) = k := by
  have hbitlen : bitlen k - 1 = k.log2 := by rw [bitlen, if_neg (by omega), Nat.add_sub_cancel]
  have hlo : 2 ^ k.log2 ≤ k := Nat.log2_self_le (by omega)
  have hhi : k < 2 ^ k.log2 * 2 := pow_succ 2 k.log2 ▸ Nat.lt_log2_self
  rw [hbitlen, Nat.mod_eq_sub_mod hlo, Nat.mod_eq_of_lt (by omega)]
  omega

/-- Settles O23: from the pair of index 1, the loop appends the bits of k below its leading 1. -/
theorem lucasProcedureComputesTheSequence : Obligations.LucasProcedureComputesTheSequence := by
  intro X Y k p hprime hp2 hk
  have : Fact p.Prime := ⟨hprime⟩
  have hU : 1 % p = imod (lucasU X Y 1) p := mod_eq_imod hprime.pos (by simp [lucasSeq])
  have hV : X % p = imod (lucasV X Y 1) p := mod_eq_imod hprime.pos (by simp [lucasSeq])
  have hstart : (1, X % p) = lucasPair X Y 1 p := by
    rw [lucasPair_eq, ← hU, ← hV, Nat.mod_eq_of_lt hprime.one_lt]
  rw [lucas, hstart, lucasLoop_lucasPair hp2, Nat.one_mul, leadingBit_add_mod hk]

end Sys2Proof.Machine
end

section
/-! SUPPORT. Which roots ModSqrt returns over an odd prime: every root it returns is a square root, and the
deterministic branches return one for every nonzero residue (spec/40_modarith.md R85 to R87, R91). -/

namespace Sys2Proof.Machine

/-! ## Residues as elements of `ZMod p` -/

theorem mod_eq_iff_natCast {n r p : Nat} (hr : r < p) : n % p = r ↔ (n : ZMod p) = r := by
  rw [ZMod.natCast_eq_natCast_iff', Nat.mod_eq_of_lt hr]

theorem natCast_pred {p : Nat} (hp : 0 < p) : ((p - 1 : Nat) : ZMod p) = -1 := by
  rw [Nat.cast_pred hp, ZMod.natCast_self, zero_sub]

/-- y is a square root of g mod p, in [0, p) (R84). -/
def IsRoot (g p y : Nat) : Prop := y < p ∧ y ^ 2 % p = g % p

theorem sq_mod_eq_iff (y g p : Nat) : y ^ 2 % p = g % p ↔ (y : ZMod p) ^ 2 = g := by
  rw [← ZMod.natCast_eq_natCast_iff', Nat.cast_pow]

theorem isRoot_mod {g p n : Nat} (hp : 0 < p) (h : (n : ZMod p) ^ 2 = g) : IsRoot g p (n % p) :=
  ⟨Nat.mod_lt n hp, (sq_mod_eq_iff _ g p).mpr (by rw [ZMod.natCast_mod, h])⟩

theorem exists_sq_mod_eq_iff (g p : Nat) [NeZero p] : (∃ x, x ^ 2 % p = g % p) ↔ IsSquare (g : ZMod p) := by
  rw [isSquare_iff_exists_sq]
  constructor
  · rintro ⟨x, hx⟩
    exact ⟨x, ((sq_mod_eq_iff x g p).mp hx).symm⟩
  · rintro ⟨x, hx⟩
    exact ⟨x.val, (sq_mod_eq_iff _ g p).mpr (by rw [ZMod.natCast_zmod_val, hx])⟩

variable {g p cap y t : Nat} {ent ent' : Entropy}

/-! ## What a returned root is -/

theorem isRoot_of_sqrtA (hp : p % 4 = 3) (h : sqrtA g p ent = .root y t ent') : IsRoot g p y := by
  rw [sqrtA_eq hp] at h
  split at h
  case isTrue hroot =>
    cases h
    exact ⟨Nat.mod_lt _ (by omega), hroot⟩
  case isFalse => cases h

section
variable [Fact p.Prime]

/-- 2 is no square mod p for p ≡ 5 (mod 8), so by Euler's criterion 2^((p−1)/2) = −1. -/
theorem two_pow_fiveModEight (hp : p % 8 = 5) : (2 : ZMod p) ^ (p / 2) = -1 := by
  have hp2 : p ≠ 2 := by omega
  have hne : (2 : ZMod p) ≠ 0 := two_ne_zero_zmod hp2
  have hnonsquare : ¬ IsSquare (2 : ZMod p) := by rw [ZMod.exists_sq_eq_two_iff hp2]; omega
  exact (ZMod.pow_div_two_eq_neg_one_or_one p hne).resolve_left
    fun hone => hnonsquare ((ZMod.euler_criterion p hne).mpr hone)

/-- The two roots of R86: (g^(u+1))² = g·g^(2u+1), and (2g·(4g)^u)² = 2^((p−1)/2)·g·g^(2u+1). -/
theorem isRoot_of_sqrtB (hp : p % 8 = 5) (h : sqrtB g p ent = .root y t ent') : IsRoot g p y := by
  obtain ⟨u, hu⟩ : ∃ u, u = (p - 5) / 8 := ⟨_, rfl⟩
  have hpos : 0 < p := by omega
  rw [sqrtB_eq hp hu] at h
  split at h
  case isTrue hone =>
    cases h
    rw [mod_eq_iff_natCast (by omega), Nat.cast_pow, Nat.cast_one] at hone
    refine isRoot_mod hpos ?_
    push_cast
    calc ((g : ZMod p) ^ (u + 1)) ^ 2 = g * g ^ (2 * u + 1) := by ring
      _ = (g : ZMod p) := by rw [hone, mul_one]
  case isFalse =>
    split at h
    case isTrue hlast =>
      cases h
      rw [mod_eq_iff_natCast (by omega), Nat.cast_pow, natCast_pred hpos] at hlast
      have htwo : (2 : ZMod p) ^ (2 * (2 * u + 1)) = -1 := by
        rw [← two_pow_fiveModEight hp]
        congr 1
        omega
      refine isRoot_mod hpos ?_
      push_cast [ZMod.natCast_mod]
      calc (2 * (g : ZMod p) * (4 * g) ^ u) ^ 2 = (2 ^ 2) ^ (2 * u + 1) * g * g ^ (2 * u + 1) := by
            rw [show (4 : ZMod p) = 2 ^ 2 by norm_num]
            ring
        _ = (g : ZMod p) := by
            rw [← pow_mul, htwo, hlast]
            ring
    case isFalse => cases h

/-- Half of a V with V² ≡ 4g is a square root of g (R87). -/
theorem isRoot_half (hp2 : p ≠ 2) {V : Nat} (hV : V * V % p = 4 * g % p) : IsRoot g p (V * modInv 2 p % p) := by
  have hhalf : (2 : ZMod p) * (modInv 2 p : Nat) = 1 := mul_modInv_two hp2 (mul_one 2)
  have hsq : (V : ZMod p) * V = 4 * g := by exact_mod_cast (ZMod.natCast_eq_natCast_iff' (V * V) (4 * g) p).mpr hV
  refine isRoot_mod (Nat.Prime.pos Fact.out) ?_
  push_cast
  generalize (modInv 2 p : ZMod p) = half at *
  calc ((V : ZMod p) * half) ^ 2 = V * V * half ^ 2 := by ring
    _ = g * (2 * half) ^ 2 := by rw [hsq]; ring
    _ = g := by rw [hhalf, one_pow, mul_one]

/-- An attempt succeeds with half of its V (R87). -/
theorem isRoot_of_sqrtAttempt {X : Nat} (hp2 : p ≠ 2) (h : sqrtAttempt g p X = .success y) : IsRoot g p y := by
  rw [sqrtAttempt] at h
  split at h
  case isTrue hroot =>
    cases h
    exact isRoot_half hp2 hroot
  case isFalse => split at h <;> cases h

/-- Whatever the draws, the loop returns only the root of an attempt. -/
theorem isRoot_of_sqrtCLoop (hp2 : p ≠ 2) {left t' : Nat} (h : sqrtCLoop g p left t' ent = .root y t ent') :
    IsRoot g p y := by
  induction left generalizing t' ent with
  | zero => cases h
  | succ left ih =>
    rw [sqrtCLoop] at h
    split at h
    case h_1 hsuccess =>
      cases h
      exact isRoot_of_sqrtAttempt hp2 hsuccess
    case h_2 => cases h
    case h_3 => exact ih h

/-- Over an odd prime every root that ModSqrt returns is a square root (R91 e). -/
theorem isRoot_of_modSqrt (hp2 : p ≠ 2) (h : modSqrt g p cap ent = .root y t ent') : IsRoot g p y := by
  have hprime : p.Prime := Fact.out
  have hp3 : 3 ≤ p := hprime.two_le.lt_of_ne' hp2
  have hodd : p % 2 = 1 := hprime.eq_two_or_odd.resolve_left hp2
  obtain h3 | h5 | h1 : p % 4 = 3 ∨ p % 8 = 5 ∨ p % 8 = 1 := by omega
  · exact isRoot_of_sqrtA h3 (modSqrt_threeModFour h3 ▸ h)
  · exact isRoot_of_sqrtB h5 (modSqrt_fiveModEight h5 ▸ h)
  · exact isRoot_of_sqrtCLoop hp2 (modSqrt_oneModEight hp3 h1 ▸ h)

end

/-! ## When the deterministic branches return one -/

/-- The deterministic branches make no draw, and their only error is NO_SQRT (R85, R86). -/
theorem modSqrt_deterministic (hp : p % 4 = 3 ∨ p % 8 = 5) :
    modSqrt g p cap ent = .failed .noSqrt 0 ent ∨ ∃ y, modSqrt g p cap ent = .root y 0 ent := by
  rcases hp with h3 | h5
  · rw [modSqrt_threeModFour h3, sqrtA_eq h3]
    split
    · exact .inr ⟨_, rfl⟩
    · exact .inl rfl
  · rw [modSqrt_fiveModEight h5, sqrtB_eq h5 rfl]
    split
    · exact .inr ⟨_, rfl⟩
    · split
      · exact .inr ⟨_, rfl⟩
      · exact .inl rfl

/-- For a residue, g^((p−1)/2) = 1: the candidate of R85 is a root, and the z of R86 is 1 or −1. -/
theorem modSqrt_ne_failed [Fact p.Prime] (hp : p % 4 = 3 ∨ p % 8 = 5) (hg : (g : ZMod p) ≠ 0)
    (hsquare : IsSquare (g : ZMod p)) : modSqrt g p cap ent ≠ .failed .noSqrt 0 ent := by
  have heuler : (g : ZMod p) ^ (p / 2) = 1 := (ZMod.euler_criterion p hg).mp hsquare
  rcases hp with h3 | h5
  · have hcandidate : (g ^ ((p + 1) / 4) % p) ^ 2 % p = g % p := by
      rw [sq_mod_eq_iff, ZMod.natCast_mod, Nat.cast_pow, ← pow_mul, show (p + 1) / 4 * 2 = p / 2 + 1 by omega,
        pow_succ, heuler, one_mul]
    rw [modSqrt_threeModFour h3, sqrtA_eq h3, if_pos hcandidate]
    exact nofun
  · obtain ⟨u, hu⟩ : ∃ u, u = (p - 5) / 8 := ⟨_, rfl⟩
    have hpos : 0 < p := by omega
    have hsq : ((g : ZMod p) ^ (2 * u + 1)) ^ 2 = 1 := by
      rw [← pow_mul, show (2 * u + 1) * 2 = p / 2 by omega, heuler]
    have hz : g ^ (2 * u + 1) % p = 1 ∨ g ^ (2 * u + 1) % p = p - 1 := by
      rw [mod_eq_iff_natCast (by omega), mod_eq_iff_natCast (by omega), natCast_pred hpos, Nat.cast_pow, Nat.cast_one]
      exact sq_eq_one_iff.mp hsq
    rw [modSqrt_fiveModEight h5, sqrtB_eq h5 hu]
    rcases hz with hone | hlast
    · rw [if_pos hone]
      exact nofun
    · rw [if_neg (by omega), if_pos hlast]
      exact nofun

end Sys2Proof.Machine
end

section
/-! PROOFS. MODSQRT in the deterministic branches, and the roots it returns over an odd prime
(spec/40_modarith.md R84 to R87, R90, R91). -/

open Sys2Proof.Spec

namespace Sys2Proof.Machine

/-- MODSQRT ends with the outcome of ModSqrt (R90). -/
theorem exec_modsqrt (rd rs1 rs2 : BReg) (s : State) :
    exec (.modsqrt rd rs1 rs2) s =
      finishSqrt rd (modSqrt (s.num rs1) (s.num rs2) s.sqrtIterMax.toNat s.entropy) s := rfl

/-- Settles O24: each branch of `modSqrt` has its closed form. -/
theorem deterministicRootsFollowTheirFormulas : Obligations.DeterministicRootsFollowTheirFormulas := by
  rintro rd rs1 rs2 s g p u rfl rfl hu
  rw [exec_modsqrt]
  refine ⟨fun hmod => ?_, fun h3 hroot => ?_, fun h3 hroot => ?_, fun h5 hone => ?_, fun h5 hlast => ?_,
    fun h5 hone hlast => ?_⟩
  · rw [modSqrt_modulus hmod, finishSqrt_failed]
  · rw [modSqrt_threeModFour h3, sqrtA_eq h3, if_pos hroot, finishSqrt_root]
  · rw [modSqrt_threeModFour h3, sqrtA_eq h3, if_neg hroot, finishSqrt_failed]
  · rw [modSqrt_fiveModEight h5, sqrtB_eq h5 hu, if_pos hone, finishSqrt_root]
  · rw [modSqrt_fiveModEight h5, sqrtB_eq h5 hu, if_neg (by omega), if_pos hlast, finishSqrt_root]
  · rw [modSqrt_fiveModEight h5, sqrtB_eq h5 hu, if_neg hone, if_neg hlast, finishSqrt_failed]

/-- Settles O26: a completion without error is the ending with a root, which is a square root and fits its register. -/
theorem rootsAreSquareRootsModuloPrimes : Obligations.RootsAreSquareRootsModuloPrimes := by
  intro rd rs1 rs2 s t hprime hp2 hexec hok
  have : Fact (s.num rs2).Prime := ⟨hprime⟩
  rw [exec_modsqrt] at hexec
  rcases finishSqrt_cases rd (modSqrt (s.num rs1) (s.num rs2) s.sqrtIterMax.toNat s.entropy) s with
    ⟨y, n, ent, hroot, hend⟩ | ⟨e, n, ent, hfailed, hend⟩ <;> rw [hend] at hexec
  · obtain rfl := (succeed_eq _ _).mp hexec
    have hy := isRoot_of_modSqrt hp2 hroot
    rw [State.num_completed, State.num_setNum_same (hy.1.trans (s.num_lt rs2))]
    exact hy
  · obtain rfl := (raise_eq _ _ _).mp hexec
    exact absurd hok (modSqrt_failed _ _ _ _ _ _ _ hfailed)

/-- Settles O27: the branch fails exactly when there is no root, since it fails for no nonzero residue and returns only
roots. -/
theorem deterministicBranchesDecideResidues : Obligations.DeterministicBranchesDecideResidues := by
  rintro rd rs1 rs2 s g p rfl rfl hprime hp
  have : Fact (s.num rs2).Prime := ⟨hprime⟩
  have hp2 : s.num rs2 ≠ 2 := by omega
  rw [exec_modsqrt]
  rcases modSqrt_deterministic (g := s.num rs1) (cap := s.sqrtIterMax.toNat) (ent := s.entropy) hp with
    hfailed | ⟨y, hroot⟩
  · refine ⟨fun hg hresidue => ?_, fun _ => by rw [hfailed, finishSqrt_failed]⟩
    rw [exists_sq_mod_eq_iff] at hresidue
    rw [Ne, ← Nat.dvd_iff_mod_eq_zero, ← ZMod.natCast_eq_zero_iff] at hg
    exact absurd hfailed (modSqrt_ne_failed hp hg hresidue)
  · obtain ⟨hlt, hsq⟩ := isRoot_of_modSqrt hp2 hroot
    exact ⟨fun _ _ => ⟨y, hlt, hsq, by rw [hroot, finishSqrt_root]⟩, fun hnone => absurd ⟨y, hsq⟩ hnone⟩

end Sys2Proof.Machine
end

section
/-! SUPPORT. The loop of PMUL is the double-and-add over the binary digits of its scalar (spec/41_ecc.md R102). -/

namespace Sys2Proof.Machine

section
variable (P : Point) (a p : Nat)

theorem pointAdd_identity_left : pointAdd identity P a p = P := if_pos rfl

/-- One turn of the loop of R102: a doubling, then for a digit 1 the addition of P. -/
def doubleAdd (digit : Bool) (Q : Point) : Point :=
  if digit then pointAdd (pointAdd Q Q a p) P a p else pointAdd Q Q a p

/-- The double-and-add by recursion on the binary digits of the scalar, from the lowest one up. -/
def doubleAndAdd (k : Nat) : Point := Nat.binaryRec identity (fun digit _ Q => doubleAdd P a p digit Q) k

theorem doubleAndAdd_zero : doubleAndAdd P a p 0 = identity := rfl

theorem doubleAndAdd_bit (digit : Bool) (k : Nat) :
    doubleAndAdd P a p (Nat.bit digit k) = doubleAdd P a p digit (doubleAndAdd P a p k) :=
  Nat.binaryRec_eq digit k (.inl (pointAdd_identity_left identity a p))

/-- The loop that stands at digit i and holds the value for the digits from i up ends with the value for all of k. -/
theorem pointMulLoop_doubleAndAdd (k i : Nat) :
    pointMulLoop P k a p i (doubleAndAdd P a p (k >>> i)) = doubleAndAdd P a p k := by
  induction i with
  | zero => rfl
  | succ i ih =>
    have hdigit : Nat.bit (k.testBit i) (k >>> (i + 1)) = k >>> i := by
      have h := Nat.bit_testBit_zero_shiftRight_one (k >>> i)
      rwa [Nat.testBit_shiftRight, Nat.add_zero, ← Nat.shiftRight_add] at h
    rw [← hdigit, doubleAndAdd_bit] at ih
    exact ih

/-- 256 turns are all the digits of a scalar that fits its register. -/
theorem pointMul_eq_doubleAndAdd {k : Nat} (hk : k < 2 ^ 256) : pointMul P k a p = doubleAndAdd P a p k := by
  have hloop := pointMulLoop_doubleAndAdd P a p k 256
  rwa [Nat.shiftRight_eq_zero k 256 hk, doubleAndAdd_zero] at hloop

/-! ## Corner cases (R102) -/

theorem doubleAndAdd_one : doubleAndAdd P a p 1 = P := by
  calc doubleAndAdd P a p 1 = doubleAdd P a p true identity := doubleAndAdd_bit P a p true 0
    _ = P := by simp only [doubleAdd, if_true, pointAdd_identity_left]

theorem doubleAndAdd_identity (k : Nat) : doubleAndAdd identity a p k = identity := by
  induction k using Nat.binaryRec with
  | zero => exact doubleAndAdd_zero identity a p
  | bit digit k ih => simp only [doubleAndAdd_bit, ih, doubleAdd, pointAdd_identity_left, ite_self]

end

end Sys2Proof.Machine
end

section
/-! PROOFS. The commands of the curve group as next states: no curve, the load of a curve, the doubling and the
multiple of a point (spec/41_ecc.md R100 to R106). -/

open Sys2Proof.Spec

namespace Sys2Proof.Machine

section
variable {js : List BReg} {s : State} (hwf : js.all BReg.isPoint = true)
include hwf

/-- A point command with even point fields and no curve completes with NO_CURVE (R104 to R106). -/
theorem pointCommand_noCurve (hnone : s.curveValid = false) (k : Result) :
    withPoints js s (withCurve s k) = .next (failed s .noCurve) := by
  rw [withPoints_even js s _ hwf, withCurve_none s k hnone]
  rfl

/-- With a curve it writes its point. -/
theorem pointCommand_curve (hvalid : s.curveValid = true) (rd : BReg) (P : Point) :
    withPoints js s (withCurve s (succeed (s.setPoint rd P))) = .next (wrotePoint s rd P) := by
  rw [withPoints_even js s _ hwf, withCurve_valid s _ hvalid]
  rfl

end

/-- Settles O37: the three point commands share their check, and YFROMX makes no draw. -/
theorem curveCommandsNeedACurve : Obligations.CurveCommandsNeedACurve := by
  intro rd rs1 rs2 s hnone
  refine ⟨fun hwf => pointCommand_noCurve hwf hnone _, fun hwf => pointCommand_noCurve hwf hnone _,
    fun hwf => pointCommand_noCurve hwf hnone _, ?_⟩
  rw [exec, execYfromx, if_neg (by simp [hnone])]
  rfl

/-! ## CURVESET (R100, R103) -/

theorem curveCheck_modulus {p a b : Nat} (hp : p < 2) : curveCheck p a b = some .modulus := if_pos hp

/-- From p = 2 on, the check is that of the discriminant. -/
theorem curveCheck_eq {p a b : Nat} (hp : 2 ≤ p) :
    curveCheck p a b = if (4 * a ^ 3 + 27 * b ^ 2) % p = 0 then some .singular else none := by
  have hdisc : 4 * a * a * a + 27 * b * b = 4 * a ^ 3 + 27 * b ^ 2 := by ring
  rw [curveCheck, if_neg (Nat.not_lt.mpr hp), hdisc]

theorem exec_curveset_failed {rs1 rs2 rs3 : BReg} {s : State} {e : ErrCode}
    (hcheck : curveCheck (s.num rs1) (s.num rs2) (s.num rs3) = some e) :
    exec (.curveset rs1 rs2 rs3) s = .next (failed s e) := by
  rw [exec, execCurveset, hcheck]
  rfl

/-- Settles O28, by the three outcomes of the check. -/
theorem curvesetChecksAndLoadsTheCurve : Obligations.CurvesetChecksAndLoadsTheCurve := by
  rintro rs1 rs2 rs3 s p a b rfl rfl rfl
  refine ⟨fun hp hdisc => ?_, fun hp => ?_, fun hp hdisc => ?_⟩
  · rw [exec, execCurveset, curveCheck_eq hp, if_neg hdisc]
    rfl
  · exact exec_curveset_failed (curveCheck_modulus hp)
  · exact exec_curveset_failed (by rw [curveCheck_eq hp, if_pos hdisc])

/-! ## PDBL (R101, R105) -/

/-- With a curve, PDBL writes PAdd of its point with itself. -/
theorem exec_pdbl {rd rs1 : BReg} {s : State} (hwf : (Instr.pdbl rd rs1).wellFormed = true)
    (hvalid : s.curveValid = true) :
    exec (.pdbl rd rs1) s =
      .next (wrotePoint s rd (pointAdd (s.point rs1) (s.point rs1) s.curveA.toNat s.curveP.toNat)) :=
  pointCommand_curve hwf hvalid rd _

/-- Settles O30: the model's sum is the source's `add`, since a curve's p is at least 2. -/
theorem pdblResult : Obligations.PdblResult := by
  intro rd rs1 s hwf hvalid hcurve
  rw [exec_pdbl hwf hvalid, pointAdd_eq_addPoints _ _ _ _ (two_le_of_curveCheck (hcurve.1 hvalid))]
  rfl

/-- Neither the slope nor the third point of PAdd uses the y of the second operand when the x are equal (C1). -/
theorem pointAdd_of_eq_x {P1 P2 : Point} (hx : P1.1 = P2.1) (h1 : P1 ≠ identity) (h2 : P2 ≠ identity) (a p : Nat) :
    pointAdd P1 P2 a p = pointAdd P1 P1 a p := by
  have hslope : slope P1 P2 a p = slope P1 P1 a p := by rw [slope, if_pos hx, slope, if_pos rfl]
  simp only [pointAdd, if_neg h1, if_neg h2, hslope, thirdPoint, hx]

/-- Settles O33: the point fields of the PDBL are among those of the PADD, and the sum does not use the second y. -/
theorem sameXIsAddedAsADoubling : Obligations.SameXIsAddedAsADoubling := by
  intro rd rs1 rs2 s hwf hx h1 h2
  have hsum := pointAdd_of_eq_x (P1 := s.point rs1) (P2 := s.point rs2) hx h1 h2 s.curveA.toNat s.curveP.toNat
  have hwfDbl : [rd, rs1].all BReg.isPoint = true :=
    List.all_eq_true.mpr fun j hj => List.all_eq_true.mp hwf j (List.mem_append_left [rs2] hj)
  rw [exec, execPadd, hsum, exec, execPdbl, withPoints_even [rd, rs1, rs2] s _ hwf,
    withPoints_even [rd, rs1] s _ hwfDbl]

/-! ## PMUL (R102, R106) -/

/-- With a curve, PMUL writes the double-and-add of its point over its scalar. -/
theorem exec_pmul {rd rs1 rs2 : BReg} {s : State} (hwf : (Instr.pmul rd rs1 rs2).wellFormed = true)
    (hvalid : s.curveValid = true) :
    exec (.pmul rd rs1 rs2) s =
      .next (wrotePoint s rd (doubleAndAdd (s.point rs1) s.curveA.toNat s.curveP.toNat (s.num rs2))) := by
  rw [exec, execPmul, pointMul_eq_doubleAndAdd _ _ _ (s.num_lt rs2)]
  exact pointCommand_curve hwf hvalid rd _

/-- Settles O31: the function M is `doubleAndAdd`, a turn of the loop for each digit. -/
theorem pmulResult : Obligations.PmulResult := by
  rintro rd rs1 rs2 s a p P hwf hvalid hcurve rfl rfl rfl
  have hp : 2 ≤ s.curveP.toNat := two_le_of_curveCheck (hcurve.1 hvalid)
  refine ⟨doubleAndAdd (s.point rs1) s.curveA.toNat s.curveP.toNat, rfl, fun k => ?_, fun k => ?_,
    exec_pmul hwf hvalid⟩
  · rw [← pointAdd_eq_addPoints _ _ _ _ hp]
    exact doubleAndAdd_bit _ _ _ false k
  · rw [← pointAdd_eq_addPoints _ _ _ _ hp, ← pointAdd_eq_addPoints _ _ _ _ hp]
    exact doubleAndAdd_bit _ _ _ true k

/-- Settles O32: the corner cases of `doubleAndAdd`. -/
theorem pmulCornerScalars : Obligations.PmulCornerScalars := by
  intro rd rs1 rs2 s hwf hvalid
  rw [exec_pmul hwf hvalid]
  refine ⟨fun hk => ?_, fun hk => ?_, fun hx hy => ?_⟩
  · rw [hk, doubleAndAdd_zero]
    rfl
  · rw [hk, doubleAndAdd_one]
    rfl
  · have hpoint : s.point rs1 = identity := Prod.ext hx hy
    rw [hpoint, doubleAndAdd_identity]
    rfl

end Sys2Proof.Machine
end

section
/-! PROOFS. YFROMX finds an ordinate of a point of the curve (spec/40_modarith.md R91; spec/41_ecc.md R107). -/

namespace Sys2Proof.Machine

section
variable {g p y : Nat} [Fact p.Prime]

/-- A number modulo a prime has no square roots but y and p − y. -/
theorem IsRoot.eq_or_eq_sub {z : Nat} (hy : IsRoot g p y) (hy0 : y ≠ 0) (hz : IsRoot g p z) : z = y ∨ z = p - y := by
  obtain ⟨hylt, hysq⟩ := hy
  obtain ⟨hzlt, hzsq⟩ := hz
  rw [sq_mod_eq_iff] at hysq hzsq
  have hinj := CharP.natCast_injOn_Iio (ZMod p) p
  refine (sq_eq_sq_iff_eq_or_eq_neg.mp (hzsq.trans hysq.symm)).imp (hinj hzlt hylt) fun hneg => ?_
  refine hinj hzlt (Nat.sub_lt (by omega) (by omega) : p - y < p) ?_
  rw [hneg, Nat.cast_sub hylt.le, ZMod.natCast_self, zero_sub]

/-- The deterministic branches return a root of a number that has a root y ≠ 0 (R91 e). -/
theorem exists_root_of_isRoot (hp : p % 4 = 3 ∨ p % 8 = 5) (hy : IsRoot g p y) (hy0 : y ≠ 0) (cap : Nat)
    (ent : Entropy) : ∃ z, modSqrt g p cap ent = .root z 0 ent := by
  obtain ⟨hylt, hysq⟩ := hy
  rw [sq_mod_eq_iff] at hysq
  have hyne : (y : ZMod p) ≠ 0 := by
    rw [Ne, ZMod.natCast_eq_zero_iff]
    exact Nat.not_dvd_of_pos_of_lt (Nat.pos_of_ne_zero hy0) hylt
  have hgne : (g : ZMod p) ≠ 0 := hysq ▸ pow_ne_zero 2 hyne
  have hsquare : IsSquare (g : ZMod p) := hysq ▸ IsSquare.sq _
  exact (modSqrt_deterministic hp).resolve_left (modSqrt_ne_failed hp hgne hsquare)

end

/-- Settles O36: the given y is a root of the right-hand side, so the branch returns a root, and that is one of
the two. -/
theorem yfromxFindsTheOrdinate : Obligations.YfromxFindsTheOrdinate := by
  rintro rd rs1 s a b p y hvalid rfl rfl rfl hprime hp hy0 hylt hy
  have : Fact s.curveP.toNat.Prime := ⟨hprime⟩
  obtain ⟨g, hg⟩ : ∃ g, g = (s.num rs1 ^ 3 + s.curveA.toNat * s.num rs1 + s.curveB.toNat) % s.curveP.toNat := ⟨_, rfl⟩
  have hroot : IsRoot g s.curveP.toNat y := ⟨hylt, by rw [hy, hg, Nat.mod_mod]⟩
  obtain ⟨z, hz⟩ := exists_root_of_isRoot hp hroot hy0 s.sqrtIterMax.toNat s.entropy
  refine ⟨z, hroot.eq_or_eq_sub hy0 (isRoot_of_modSqrt (by omega) hz), ?_⟩
  rw [exec_yfromx rd rs1 hvalid rfl hg, hz]
  rfl

end Sys2Proof.Machine
end

section
/-! SUPPORT. The codec commands on a written input: CheckSrc hands over its bytes, and CheckDst stores the output or
completes with BOUNDS (spec/42_codecs.md R133). -/

open Sys2Proof.Spec

namespace Sys2Proof.Machine

variable {s : State} {bs out : List Byte}

theorem withSrc_input (hin : Input s bs) (k : List Byte → Result) : withSrc s k = k bs := by
  obtain ⟨hrange, hbytes⟩ := hin
  exact withSrc_ok s k bs hrange ((Memory.readBytes_ok _ _ _ _).mpr hbytes)

/-- The result `r` of a command that has the output `out`: `out` is stored when it fits, and nothing when it does not
(R133). -/
def Delivers (s : State) (out : List Byte) (r : Result) : Prop :=
  (s.dstAddr.toNat + out.length ≤ 4096 → r = .next (stored s out)) ∧
  (4096 < s.dstAddr.toNat + out.length → r = .next (failed s .bounds))

theorem delivers_deliver (s : State) (out : List Byte) : Delivers s out (deliver s out) :=
  ⟨fun hfits => if_neg (Nat.not_lt.mpr hfits), fun hpast => if_pos hpast⟩

theorem codec_delivers {f : List Byte → Except ErrCode (List Byte)} (hin : Input s bs) (hf : f bs = .ok out) :
    Delivers s out (codec f s) := by
  rw [codec, withSrc_input hin, codecOn, hf]
  exact delivers_deliver s out

theorem codec_failed {f : List Byte → Except ErrCode (List Byte)} {e : ErrCode} (hin : Input s bs)
    (hf : f bs = .error e) : codec f s = .next (failed s e) := by
  rw [codec, withSrc_input hin, codecOn, hf]
  rfl

end Sys2Proof.Machine
end

section
/-! PROOFS. I2B and B2I: the minimal big-endian image of a register and its inverse
(spec/42_codecs.md R120, R121, R125, R126). -/

open Sys2Proof.Spec

namespace Sys2Proof.Machine

theorem be_eq_beValue (bs : List Byte) : be bs = beValue bs := by
  induction bs with
  | nil => rfl
  | cons b bs ih => rw [be, beValue_cons, ih]

/-! ## The minimal image (R8, R120) -/

theorem log2_eq_size {v : Nat} (hv : v ≠ 0) : v.log2 + 1 = v.size :=
  le_antisymm (Nat.lt_size.mpr (Nat.log2_self_le hv)) (Nat.size_le.mpr Nat.lt_log2_self)

theorem length_intToBytes (v : Nat) : (intToBytes v).length = max 1 ((v.size + 7) / 8) := by
  rw [intToBytes, beBytes_length, hexlen]
  split
  case isTrue hzero => subst hzero; rfl
  case isFalse hv => have := log2_eq_size hv; omega

/-- The minimal image has room for every bit of its value. -/
theorem lt_pow_length_intToBytes (v : Nat) : v < 256 ^ (intToBytes v).length := by
  rw [show 256 = 2 ^ 8 from rfl, ← pow_mul, ← Nat.size_le, length_intToBytes]
  omega

theorem be_intToBytes (v : Nat) : be (intToBytes v) = v := by
  have hlt := lt_pow_length_intToBytes v
  rw [intToBytes, beBytes_length] at hlt
  rw [be_eq_beValue, intToBytes, beValue_beBytes, Nat.mod_eq_of_lt hlt]

/-- Settles O38: the output is `intToBytes` of the register. -/
theorem i2bResult : Obligations.I2bResult := fun rs1 s =>
  ⟨intToBytes (s.num rs1), length_intToBytes _, be_intToBytes _, delivers_deliver s _⟩

/-! ## The value of the input (R121) -/

section
variable {s : State} {bs : List Byte} (rd : BReg)

theorem exec_b2i_value (hin : Input s bs) (hfits : be bs < 2 ^ 256) :
    exec (.b2i rd) s = .next (wrote s rd (be bs)) := by
  rw [be_eq_beValue] at hfits ⊢
  rw [exec, execB2i, withSrc_input hin, loadInteger, bytesToInt, if_neg (Nat.not_le.mpr hfits)]
  rfl

theorem exec_b2i_width (hin : Input s bs) (hwide : 2 ^ 256 ≤ be bs) :
    exec (.b2i rd) s = .next (failed s .width) := by
  rw [be_eq_beValue] at hwide
  rw [exec, execB2i, withSrc_input hin, loadInteger, bytesToInt, if_pos hwide]
  rfl

end

/-- Settles O39: the two branches of BytesToInt. -/
theorem b2iResult : Obligations.B2iResult := fun rd _ _ hin => ⟨exec_b2i_value rd hin, exec_b2i_width rd hin⟩

/-! ## B2I after I2B (R121) -/

/-- What a command stored is the input of a command that is pointed at it. -/
theorem input_of_stored {s : State} {out : List Byte} (hfits : s.dstAddr.toNat + out.length ≤ 4096) :
    Input { stored s out with srcAddr := s.dstAddr, srcLen := (stored s out).outLen } out := by
  have hlen : (stored s out).outLen.toNat = out.length := by
    rw [stored, BitVec.toNat_ofNat, Nat.mod_eq_of_lt (by omega)]
  refine ⟨?_, hlen.symm, fun i hi => ?_⟩
  · rw [hlen]; exact hfits
  · exact Memory.readByte_writeBytes_add s.bmem s.dstAddr.toNat out (hlen ▸ hi)

/-- Settles O40: the input of B2I is the image that I2B stored, and its value is that of the register. -/
theorem b2iRecoversWhatI2bWrote : Obligations.B2iRecoversWhatI2bWrote := by
  intro rs1 rd s t hexec hok
  obtain ⟨hstored, hbounds⟩ := delivers_deliver s (intToBytes (s.num rs1))
  by_cases hfits : s.dstAddr.toNat + (intToBytes (s.num rs1)).length ≤ 4096
  · cases hexec.symm.trans (hstored hfits)
    have hvalue := exec_b2i_value rd (input_of_stored hfits)
    rw [be_intToBytes] at hvalue
    exact hvalue (s.num_lt rs1)
  · cases hexec.symm.trans (hbounds (Nat.lt_of_not_le hfits))
    cases hok

end Sys2Proof.Machine
end

section
/-! SUPPORT. The symbol maps of the two base85 variants are inverse to each other on the digits, and the words of a byte
sequence (spec/42_codecs.md R122, R124, R129). -/

open Sys2Proof.Spec

namespace Sys2Proof.Machine

/-! ## Symbol maps (R124) -/

/-- `unsym` inverts `sym` on the 85 digits, and is invalid elsewhere (R124). -/
def InverseMaps (sym : Nat → Byte) (unsym : Byte → Option Nat) : Prop := ∀ c d, unsym c = some d ↔ d < 85 ∧ sym d = c

theorem symIn_eq_getElem {l : List Byte} {d : Nat} (hd : d < l.length) : symIn l d = l[d] :=
  (List.getElem_eq_getD 0#8).symm

theorem inverseMaps_of_nodup {l : List Byte} (hlen : l.length = 85) (hnodup : l.Nodup) :
    InverseMaps (symIn l) (unsymIn l) := by
  intro c d
  rw [unsymIn, List.idxOf?_eq_some_iff]
  constructor
  · rintro ⟨hd, hc, -⟩
    exact ⟨hlen ▸ hd, (symIn_eq_getElem hd).trans hc⟩
  · rintro ⟨hd, hc⟩
    rw [← hlen] at hd
    rw [symIn_eq_getElem hd] at hc
    refine ⟨hd, hc, fun j hj hcj => ?_⟩
    have := hnodup.getElem_inj_iff.mp (hcj.trans hc.symm)
    omega

theorem legalAlphabet_safeAlphabet : legalAlphabet safeAlphabet = true := by
  unfold safeAlphabet
  split
  case isTrue hlegal => exact hlegal
  case isFalse => decide +kernel

theorem legalAlphabet_iff (l : List Byte) :
    legalAlphabet l = true ↔ l.length = 85 ∧ l.Nodup ∧ (∀ c ∈ l, 0x21 ≤ c.toNat ∧ c.toNat ≤ 0x7E) ∧
      l ≠ ascii85Sequence ∧ l ≠ rfc1924Sequence := by
  simp [legalAlphabet, and_assoc]

theorem inverseMaps_safe : InverseMaps symSafe unsymSafe := by
  obtain ⟨hlen, hnodup, -⟩ := (legalAlphabet_iff _).mp legalAlphabet_safeAlphabet
  exact inverseMaps_of_nodup hlen hnodup

theorem inverseMaps_ascii : InverseMaps ascii85 unsymAscii := by
  intro c d
  have hc := c.isLt
  rw [unsymAscii, ascii85, ← BitVec.toNat_inj, BitVec.toNat_ofNat]
  split
  case isTrue hrange => rw [Option.some_inj]; omega
  case isFalse hrange => exact iff_of_false nofun (by omega)

/-- Settles O44: the alphabet in use is the parameter when that is legal, and else one that is. -/
theorem safeAlphabetIsLegal : Obligations.SafeAlphabetIsLegal := by
  obtain ⟨hlen, hnodup, hprintable, hascii, hrfc⟩ := (legalAlphabet_iff _).mp legalAlphabet_safeAlphabet
  exact ⟨hlen, hnodup, hprintable, hascii, hrfc, fun d hd => (inverseMaps_safe _ d).mpr ⟨hd, rfl⟩⟩

/-! ## Words (R122, R129) -/

section
variable (a b c d : Byte) (rest : List Byte)

theorem word_zero : word (a :: b :: c :: d :: rest) 0 = wordOf4 a b c d := by
  show be [a, b, c, d] = _
  simp [be, wordOf4, Nat.add_assoc]

theorem word_succ (q : Nat) : word (a :: b :: c :: d :: rest) (q + 1) = word rest q := by
  rw [word, Nat.mul_succ]
  rfl

theorem beBytes_wordOf4 : beBytes (wordOf4 a b c d) 4 = [a, b, c, d] := by
  have := a.isLt
  have := b.isLt
  have := c.isLt
  have := d.isLt
  simp only [beBytes, List.cons.injEq, ← BitVec.toNat_inj, BitVec.toNat_ofNat, wordOf4, and_true, Nat.reducePow]
  omega

end

theorem wordOf4_lt (a b c d : Byte) : wordOf4 a b c d < 2 ^ 32 := by
  have := a.isLt
  have := b.isLt
  have := c.isLt
  have := d.isLt
  rw [wordOf4]
  omega

theorem be_lt (bs : List Byte) : be bs < 256 ^ bs.length := by
  induction bs with
  | nil => decide
  | cons b bs ih =>
    calc be (b :: bs) < b.toNat * 256 ^ bs.length + 256 ^ bs.length := Nat.add_lt_add_left ih _
      _ = (b.toNat + 1) * 256 ^ bs.length := (Nat.succ_mul _ _).symm
      _ ≤ 256 * 256 ^ bs.length := Nat.mul_le_mul_right _ b.isLt
      _ = 256 ^ (b :: bs).length := (Nat.pow_succ').symm

theorem word_lt (t : List Byte) (q : Nat) : word t q < 2 ^ 32 :=
  calc word t q < 256 ^ ((t.drop (4 * q)).take 4).length := be_lt _
    _ ≤ 256 ^ 4 := Nat.pow_le_pow_right (by decide) (List.length_take_le _ _)

/-- A word is the image of its four bytes (R10). -/
theorem exists_beBytes_four (w : Nat) (hw : w < 2 ^ 32) :
    ∃ a b c d, beBytes w 4 = [a, b, c, d] ∧ wordOf4 a b c d = w := by
  refine ⟨_, _, _, _, rfl, ?_⟩
  simp only [wordOf4, BitVec.toNat_ofNat]
  omega

end Sys2Proof.Machine
end

section
/-! PROOFS. Base85Decode accepts exactly the texts of R123 and gives the bytes of R123
(spec/42_codecs.md R123, R128, R135). -/

open Sys2Proof.Spec

namespace Sys2Proof.Machine

/-! ## Groups of five symbols -/

/-- Group q of the text is five symbols with the positional sum w (R123). -/
def Group85 (sym : Nat → Byte) (text : List Byte) (q w : Nat) : Prop :=
  ∃ d : Fin 5 → Fin 85, (∀ j : Fin 5, text[5 * q + j.val]? = some (sym (d j))) ∧
    w = (d 0).val * 85 ^ 4 + (d 1).val * 85 ^ 3 + (d 2).val * 85 ^ 2 + (d 3).val * 85 + (d 4).val

section
variable {sym : Nat → Byte} {unsym : Byte → Option Nat}

theorem group85_succ (a b c d e : Byte) (rest : List Byte) (q w : Nat) :
    Group85 sym (a :: b :: c :: d :: e :: rest) (q + 1) w ↔ Group85 sym rest q w := by
  have hindex (j : Fin 5) : 5 * (q + 1) + j.val = 5 * q + j.val + 5 := by omega
  simp only [Group85, hindex, List.getElem?_cons_succ]

theorem groupWord_eq_some_iff_digits (a b c d e : Byte) (w : Nat) :
    groupWord unsym a b c d e = some w ↔ ∃ va vb vc vd ve, unsym a = some va ∧ unsym b = some vb ∧
      unsym c = some vc ∧ unsym d = some vd ∧ unsym e = some ve ∧
      w = (((va * 85 + vb) * 85 + vc) * 85 + vd) * 85 + ve ∧ w < 2 ^ 32 := by
  unfold groupWord
  split
  case h_1 va vb vc vd ve ha hb hc hd he =>
    simp only [ha, hb, hc, hd, he, Option.some_inj, Option.ite_none_left_eq_some]
    constructor
    · rintro ⟨hlt, rfl⟩
      exact ⟨va, vb, vc, vd, ve, rfl, rfl, rfl, rfl, rfl, rfl, Nat.lt_of_not_le hlt⟩
    · rintro ⟨_, _, _, _, _, rfl, rfl, rfl, rfl, rfl, rfl, hlt⟩
      exact ⟨Nat.not_le.mpr hlt, rfl⟩
  case h_2 hnone =>
    refine iff_of_false nofun ?_
    rintro ⟨va, vb, vc, vd, ve, ha, hb, hc, hd, he, -⟩
    exact hnone va vb vc vd ve ha hb hc hd he

theorem groupWord_eq_some_iff (hinv : InverseMaps sym unsym) (a b c d e : Byte) (rest : List Byte) (w : Nat) :
    groupWord unsym a b c d e = some w ↔ Group85 sym (a :: b :: c :: d :: e :: rest) 0 w ∧ w < 2 ^ 32 := by
  rw [groupWord_eq_some_iff_digits]
  constructor
  · rintro ⟨va, vb, vc, vd, ve, ha, hb, hc, hd, he, hw, hlt⟩
    obtain ⟨hva, rfl⟩ := (hinv _ _).mp ha
    obtain ⟨hvb, rfl⟩ := (hinv _ _).mp hb
    obtain ⟨hvc, rfl⟩ := (hinv _ _).mp hc
    obtain ⟨hvd, rfl⟩ := (hinv _ _).mp hd
    obtain ⟨hve, rfl⟩ := (hinv _ _).mp he
    refine ⟨⟨![⟨va, hva⟩, ⟨vb, hvb⟩, ⟨vc, hvc⟩, ⟨vd, hvd⟩, ⟨ve, hve⟩], fun j => by fin_cases j <;> rfl, ?_⟩, hlt⟩
    rw [hw]
    show _ = va * 85 ^ 4 + vb * 85 ^ 3 + vc * 85 ^ 2 + vd * 85 + ve
    ring
  · rintro ⟨⟨digit, hsym, hw⟩, hlt⟩
    have hunsym (j : Fin 5) (x : Byte) (hx : (a :: b :: c :: d :: e :: rest)[5 * 0 + j.val]? = some x) :
        unsym x = some (digit j).val :=
      (hinv _ _).mpr ⟨(digit j).isLt, Option.some_inj.mp ((hsym j).symm.trans hx)⟩
    exact ⟨_, _, _, _, _, hunsym 0 a rfl, hunsym 1 b rfl, hunsym 2 c rfl, hunsym 3 d rfl, hunsym 4 e rfl,
      by rw [hw]; ring, hlt⟩

/-! ## The buffer of a text -/

/-- `t` is the buffer of the text: one word for each group (R123). -/
def Buffer85 (sym : Nat → Byte) (text t : List Byte) : Prop :=
  5 * t.length = 4 * text.length ∧ ∀ q, 5 * q < text.length → Group85 sym text q (word t q)

/-- Group by group: the first word is that of the first group. -/
theorem buffer85_cons (x0 x1 x2 x3 x4 a b c d : Byte) (text t : List Byte) :
    Buffer85 sym (x0 :: x1 :: x2 :: x3 :: x4 :: text) (a :: b :: c :: d :: t) ↔
      Group85 sym (x0 :: x1 :: x2 :: x3 :: x4 :: text) 0 (wordOf4 a b c d) ∧ Buffer85 sym text t := by
  simp only [Buffer85, List.length_cons]
  constructor
  · rintro ⟨hlen, hgroup⟩
    refine ⟨word_zero a b c d t ▸ hgroup 0 (by omega), by omega, fun q hq => ?_⟩
    have hsucc := hgroup (q + 1) (by omega)
    rwa [group85_succ, word_succ] at hsucc
  · rintro ⟨hfirst, hlen, hgroup⟩
    refine ⟨by omega, fun q hq => ?_⟩
    cases q with
    | zero => rwa [word_zero]
    | succ q => rw [group85_succ, word_succ]; exact hgroup q (by omega)

theorem decodeGroups_cons_eq_some_iff (a b c d e : Byte) (rest t : List Byte) :
    decodeGroups unsym (a :: b :: c :: d :: e :: rest) = some t ↔
      ∃ w t', groupWord unsym a b c d e = some w ∧ decodeGroups unsym rest = some t' ∧ beBytes w 4 ++ t' = t := by
  rw [decodeGroups]
  cases groupWord unsym a b c d e <;> cases decodeGroups unsym rest <;> simp

theorem decodeGroups_eq_some_iff (hinv : InverseMaps sym unsym) :
    ∀ text t : List Byte, decodeGroups unsym text = some t ↔ Buffer85 sym text t
  | [], t => by simp [decodeGroups, Buffer85, eq_comm (a := [])]
  | x0 :: x1 :: x2 :: x3 :: x4 :: text, t => by
    simp only [decodeGroups_cons_eq_some_iff, groupWord_eq_some_iff hinv _ _ _ _ _ text,
      decodeGroups_eq_some_iff hinv text]
    constructor
    · rintro ⟨w, t', ⟨hgroup, hlt⟩, hbuffer, rfl⟩
      obtain ⟨a, b, c, d, hbytes, rfl⟩ := exists_beBytes_four w hlt
      rw [hbytes]
      exact (buffer85_cons ..).mpr ⟨hgroup, hbuffer⟩
    · intro hbuffer
      match t, hbuffer with
      | a :: b :: c :: d :: t', hbuffer =>
        obtain ⟨hgroup, hrest⟩ := (buffer85_cons ..).mp hbuffer
        exact ⟨_, t', ⟨hgroup, wordOf4_lt a b c d⟩, hrest, by rw [beBytes_wordOf4]; rfl⟩
      | [], ⟨hlen, _⟩ | [_], ⟨hlen, _⟩ | [_, _], ⟨hlen, _⟩ | [_, _, _], ⟨hlen, _⟩ =>
        simp only [List.length_cons, List.length_nil] at hlen
        omega
  | [_], t | [_, _], t | [_, _, _], t | [_, _, _, _], t => by
    refine iff_of_false nofun fun ⟨hlen, _⟩ => ?_
    simp only [List.length_cons, List.length_nil] at hlen
    omega

/-! ## The padding count and the whole text -/

theorem unpad_eq_ok_iff (t out : List Byte) :
    unpad t = .ok out ↔ ∃ k : Fin 5, 1 ≤ k.val ∧ t.getLast? = some (BitVec.ofNat 8 k.val) ∧
      out = t.take (t.length - k.val) := by
  rw [unpad]
  cases hlast : t.getLast? with
  | none => simp [List.getLastD_eq_getLast?, hlast]
  | some b =>
    simp only [List.getLastD_eq_getLast?, hlast, Option.getD_some]
    split
    case isTrue hk =>
      refine iff_of_false nofun ?_
      rintro ⟨k, hk1, hb, -⟩
      rw [Option.some_inj.mp hb, BitVec.toNat_ofNat] at hk
      omega
    case isFalse hk =>
      rw [Except.ok.injEq]
      constructor
      · rintro rfl
        have hlo : 1 ≤ b.toNat := by omega
        exact ⟨⟨b.toNat, by omega⟩, hlo, by simp, rfl⟩
      · rintro ⟨k, hk1, hb, rfl⟩
        rw [Option.some_inj.mp hb, BitVec.toNat_ofNat, Nat.mod_eq_of_lt (by omega)]

theorem base85Decode_eq_ok_iff (hinv : InverseMaps sym unsym) (text out : List Byte) :
    base85Decode unsym text = .ok out ↔ Decodes85 sym text out := by
  have hdecodes : Decodes85 sym text out ↔
      ∃ t, 0 < text.length ∧ Buffer85 sym text t ∧ unpad t = .ok out := by
    simp only [unpad_eq_ok_iff, Buffer85, and_assoc]
    rfl
  simp only [hdecodes, ← decodeGroups_eq_some_iff hinv]
  rw [base85Decode]
  split
  case isTrue hlen =>
    refine iff_of_false nofun ?_
    rintro ⟨t, hpos, hgroups, -⟩
    obtain ⟨hfive, -⟩ := (decodeGroups_eq_some_iff hinv text t).mp hgroups
    omega
  case isFalse hlen =>
    have hpos : 0 < text.length := by omega
    cases decodeGroups unsym text with
    | none => simp
    | some t => simp [hpos]

theorem unpad_error {t : List Byte} {e : ErrCode} (h : unpad t = .error e) : e = .encoding := by
  simp only [unpad] at h
  split at h
  · exact (Except.error.inj h).symm
  · cases h

theorem base85Decode_error_eq {text : List Byte} {e : ErrCode} (h : base85Decode unsym text = .error e) :
    e = .encoding := by
  unfold base85Decode at h
  split at h
  · exact (Except.error.inj h).symm
  · split at h
    · exact (Except.error.inj h).symm
    · exact unpad_error h

theorem base85Decode_encoding (hinv : InverseMaps sym unsym) {text : List Byte}
    (hnone : ¬ ∃ out, Decodes85 sym text out) : base85Decode unsym text = .error .encoding := by
  cases hdecode : base85Decode unsym text with
  | ok out => exact absurd ⟨out, (base85Decode_eq_ok_iff hinv text out).mp hdecode⟩ hnone
  | error e => rw [base85Decode_error_eq hdecode]

end

/-- Settles O42: `base85Decode` is the relation of R123 in both variants, and its only error is ENCODING. -/
theorem base85DecodeResult : Obligations.Base85DecodeResult := fun _ _ hin =>
  ⟨fun _ hout => codec_delivers hin ((base85Decode_eq_ok_iff inverseMaps_safe _ _).mpr hout),
    fun hnone => codec_failed hin (base85Decode_encoding inverseMaps_safe hnone),
    fun _ hout => codec_delivers hin ((base85Decode_eq_ok_iff inverseMaps_ascii _ _).mpr hout),
    fun hnone => codec_failed hin (base85Decode_encoding inverseMaps_ascii hnone)⟩

end Sys2Proof.Machine
end

section
/-! PROOFS. Base85Encode writes the text of R122, and that text is one of R123 for the same bytes
(spec/42_codecs.md R122, R123, R127, R134). -/

open Sys2Proof.Spec

namespace Sys2Proof.Machine

/-! ## The text (R122) -/

theorem length_pad (bs : List Byte) : (pad bs).length = 4 * (bs.length / 4 + 1) := by
  rw [pad, List.length_append, List.length_replicate]
  omega

theorem length_bufferDigits : ∀ t : List Byte, (bufferDigits t).length = 5 * (t.length / 4)
  | [] | [_] | [_, _] | [_, _, _] => by simp [bufferDigits]
  | a :: b :: c :: d :: t => by
    have ih := length_bufferDigits t
    simp only [bufferDigits, digits85, List.length_append, List.length_cons, List.length_nil, ih]
    omega

theorem getElem?_digits85 (w : Nat) {j : Nat} (hj : j < 5) : (digits85 w)[j]? = some (w / 85 ^ (4 - j) % 85) := by
  interval_cases j <;> simp [digits85]

theorem getElem?_bufferDigits {j : Nat} (hj : j < 5) : ∀ (t : List Byte) (q : Nat), q < t.length / 4 →
    (bufferDigits t)[5 * q + j]? = some (word t q / 85 ^ (4 - j) % 85)
  | [], q, hq | [_], q, hq | [_, _], q, hq | [_, _, _], q, hq => by
    simp only [List.length_cons, List.length_nil] at hq
    omega
  | a :: b :: c :: d :: t, 0, _ => by
    rw [bufferDigits, word_zero, Nat.mul_zero, Nat.zero_add, List.getElem?_append_left (by exact hj)]
    exact getElem?_digits85 _ hj
  | a :: b :: c :: d :: t, q + 1, hq => by
    have hindex : 5 * (q + 1) + j = (digits85 (wordOf4 a b c d)).length + (5 * q + j) := by
      show _ = 5 + (5 * q + j)
      omega
    rw [bufferDigits, word_succ, hindex, List.getElem?_append_right (Nat.le_add_right _ _), Nat.add_sub_cancel_left]
    simp only [List.length_cons] at hq
    exact getElem?_bufferDigits hj t q (by omega)

theorem encodes85_base85Encode (sym : Nat → Byte) (bs : List Byte) : Encodes85 sym bs (base85Encode sym bs) := by
  have hlen : (pad bs).length / 4 = bs.length / 4 + 1 := by rw [length_pad]; omega
  have hdigits : base85Encode sym bs = (bufferDigits (pad bs)).map sym := rfl
  refine ⟨?_, fun q j hq hj => ?_⟩
  · rw [hdigits, List.length_map, length_bufferDigits, hlen]
  · rw [hdigits, List.getElem?_map, getElem?_bufferDigits hj _ q (hlen ▸ hq), Option.map_some]

/-- Settles O41: the output is `base85Encode` of the input, in either alphabet. -/
theorem base85EncodeResult : Obligations.Base85EncodeResult := fun _ bs hin =>
  ⟨⟨_, encodes85_base85Encode symSafe bs, codec_delivers hin rfl⟩,
    ⟨_, encodes85_base85Encode symAscii bs, codec_delivers hin rfl⟩⟩

/-! ## Decoding the text (R123) -/

/-- The digits of a word below 85^5 are five symbols with that sum (R122). -/
theorem group85_of_digits {sym : Nat → Byte} {text : List Byte} {q w : Nat} (hw : w < 85 ^ 5)
    (hsym : ∀ j < 5, text[5 * q + j]? = some (sym (w / 85 ^ (4 - j) % 85))) : Group85 sym text q w := by
  refine ⟨fun j => ⟨w / 85 ^ (4 - j.val) % 85, Nat.mod_lt _ (by decide)⟩, fun j => hsym j j.isLt, ?_⟩
  show w = w / 85 ^ 4 % 85 * 85 ^ 4 + w / 85 ^ 3 % 85 * 85 ^ 3 + w / 85 ^ 2 % 85 * 85 ^ 2 + w / 85 ^ 1 % 85 * 85 +
    w / 85 ^ 0 % 85
  omega

/-- The padded input is the buffer of its text. -/
theorem decodes85_of_encodes85 {sym : Nat → Byte} {bs text : List Byte} (h : Encodes85 sym bs text) :
    Decodes85 sym text bs := by
  obtain ⟨hlen, hsym⟩ := h
  refine ⟨pad bs, by omega, by rw [length_pad, hlen]; omega, fun q hq => ?_, ⟨4 - bs.length % 4, by omega⟩,
    by show 1 ≤ 4 - bs.length % 4; omega, ?_, ?_⟩
  · have hlt := word_lt (pad bs) q
    exact group85_of_digits (by omega) fun j hj => hsym q j (by omega) hj
  · rw [pad, List.getLast?_append, List.getLast?_replicate, if_neg (by omega), Option.some_or]
  · rw [pad, List.length_append, List.length_replicate, Nat.add_sub_cancel, List.take_left]

/-- Settles O43: a text of R122 is a text of R123 for the same bytes. -/
theorem base85DecodeRecoversTheBytes : Obligations.Base85DecodeRecoversTheBytes := by
  intro s bs text hin hfits
  obtain ⟨hsafe, -, hascii, -⟩ := base85DecodeResult s text hin
  exact ⟨fun h => (hsafe bs (decodes85_of_encodes85 h)).1 hfits,
    fun h => (hascii bs (decodes85_of_encodes85 h)).1 hfits⟩

end Sys2Proof.Machine
end

section
/-! SUPPORT. The bytes of a code point in the model's division form: a lead byte and its continuation bytes, the bit
patterns of R129, and the code-point array (spec/42_codecs.md R129, R130). -/

open Sys2Proof.Spec

namespace Sys2Proof.Machine

/-! ## Bit patterns (R129) -/

/-- A pattern byte: the fixed bits `p` above bits [start + n − 1 : start] of a code point. -/
theorem append_extractLsb' {m n : Nat} (p : BitVec m) (c start : Nat) (h : start + n ≤ 21) :
    p ++ (BitVec.ofNat 21 c).extractLsb' start n = BitVec.ofNat (m + n) (p.toNat * 2 ^ n + c / 2 ^ start % 2 ^ n) := by
  have hbits : ((BitVec.ofNat 21 c).extractLsb' start n).toNat = c / 2 ^ start % 2 ^ n := by
    rw [BitVec.extractLsb'_toNat, BitVec.toNat_ofNat, Nat.shiftRight_eq_div_pow,
      ← Nat.mod_mul_right_div_self, ← Nat.mod_mul_right_div_self, ← pow_add, Nat.mod_mod_of_dvd _ (pow_dvd_pow 2 h)]
  have hlt : c / 2 ^ start % 2 ^ n < 2 ^ n := Nat.mod_lt _ (Nat.two_pow_pos n)
  have hfits := calc
    p.toNat * 2 ^ n + c / 2 ^ start % 2 ^ n < p.toNat * 2 ^ n + 2 ^ n := Nat.add_lt_add_left hlt _
    _ = (p.toNat + 1) * 2 ^ n := (Nat.succ_mul _ _).symm
    _ ≤ 2 ^ m * 2 ^ n := Nat.mul_le_mul_right _ p.isLt
    _ = 2 ^ (m + n) := (pow_add 2 m n).symm
  apply BitVec.eq_of_toNat_eq
  rw [BitVec.toNat_append, hbits, ← Nat.shiftLeft_add_eq_or_of_lt hlt, Nat.shiftLeft_eq, BitVec.toNat_ofNat,
    Nat.mod_eq_of_lt hfits]

theorem utf8_eq_utf8Bytes {c : Nat} (hc : c ≤ 0x10FFFF) : utf8 c = utf8Bytes c := by
  have hbyte {m n : Nat} (p : BitVec m) (start v : Nat) (h : start + n ≤ 21)
      (hv : p.toNat * 2 ^ n + c / 2 ^ start % 2 ^ n = v) :
      p ++ (BitVec.ofNat 21 c).extractLsb' start n = BitVec.ofNat (m + n) v := hv ▸ append_extractLsb' p c start h
  have hcont (start v : Nat) (h : start + 6 ≤ 21) (hv : c / 2 ^ start = v) :
      0b10#2 ++ (BitVec.ofNat 21 c).extractLsb' start 6 = BitVec.ofNat 8 (0x80 + v % 64) :=
    hbyte 0b10#2 start _ h (by rw [hv]; rfl)
  have h0 := hcont 0 c (by decide) (Nat.div_one c)
  have h6 := hcont 6 (c / 64) (by decide) rfl
  have h12 := hcont 12 (c / 4096) (by decide) rfl
  unfold utf8 utf8Bytes
  dsimp only
  split_ifs with h1 h2 h3
  · rw [hbyte 0#1 0 c (by decide) (by simp; omega)]
  · rw [hbyte 0b110#3 6 (0xC0 + c / 64) (by decide) (by simp; omega), h0]
  · rw [hbyte 0b1110#4 12 (0xE0 + c / 4096) (by decide) (by simp; omega), h6, h0]
  · rw [hbyte 0b11110#5 18 (0xF0 + c / 262144) (by decide) (by simp; omega), h12, h6, h0]

theorem flatMap_utf8 {cps : List Nat} (htext : Text cps) : cps.flatMap utf8 = cps.flatMap utf8Bytes :=
  List.flatMap_congr fun c hc => utf8_eq_utf8Bytes (htext c hc)

/-! ## Lead and continuation bytes (R130) -/

/-- The last k bytes of a sequence of the code point c: six bits of c each, most significant first (R129). -/
def contBytes : Nat → Nat → List Byte
  | 0, _ => []
  | k + 1, c => BitVec.ofNat 8 (0x80 + c / 64 ^ k % 64) :: contBytes k c

/-- Continuation bytes are read exactly when they are those of the code point that comes out. -/
theorem utf8Continue_eq_some_iff (bs : List Byte) (hi c : Nat) :
    utf8Continue bs hi = some c ↔ bs = contBytes bs.length c ∧ hi = c / 64 ^ bs.length := by
  induction bs generalizing hi with
  | nil => simp [utf8Continue, contBytes]
  | cons b bs ih =>
    obtain ⟨x, hx⟩ : ∃ x, x = c / 64 ^ bs.length := ⟨_, rfl⟩
    have hbyte : b = BitVec.ofNat 8 (0x80 + x % 64) ↔ b.toNat = 0x80 + x % 64 := by
      rw [← BitVec.toNat_inj, BitVec.toNat_ofNat, Nat.mod_eq_of_lt (by omega)]
    rw [utf8Continue, Option.ite_none_left_eq_some, ih, List.length_cons, contBytes, List.cons.injEq, pow_succ,
      ← Nat.div_div_eq_div_mul, ← hx, hbyte]
    have := b.isLt
    constructor
    · rintro ⟨htop, htail, hval⟩
      exact ⟨⟨by omega, htail⟩, by omega⟩
    · rintro ⟨⟨hval, htail⟩, hhi⟩
      exact ⟨by omega, htail, by omega⟩

/-- A lead byte of n = k + 1 bytes with the bits of a code point from `lo` on is the first byte of its sequence. -/
theorem utf8Bytes_of_lead {b : Byte} {k c lo : Nat} (hlead : utf8Lead b = some (k + 1, c / 64 ^ k, lo)) (hlo : lo ≤ c) :
    utf8Bytes c = b :: contBytes k c := by
  have hofNat {v : Nat} (hv : v = b.toNat) : BitVec.ofNat 8 v = b := by rw [hv, BitVec.ofNat_toNat, BitVec.setWidth_eq]
  unfold utf8Lead at hlead
  split_ifs at hlead with h1 h2 h3 h4 <;>
    simp only [Option.some_inj, Prod.mk.injEq] at hlead <;> obtain ⟨hk, hbits, rfl⟩ := hlead
  · obtain rfl : k = 0 := by omega
    rw [utf8Bytes, if_pos (by omega), hofNat (by omega)]
    rfl
  · obtain rfl : k = 1 := by omega
    rw [utf8Bytes, if_neg (by omega), if_pos (by omega), hofNat (by omega)]
    simp [contBytes]
  · obtain rfl : k = 2 := by omega
    rw [utf8Bytes, if_neg (by omega), if_neg (by omega), if_pos (by omega), hofNat (by omega)]
    simp [contBytes]
  · obtain rfl : k = 3 := by omega
    rw [utf8Bytes, if_neg (by omega), if_neg (by omega), if_neg (by omega), hofNat (by omega)]
    simp [contBytes]

/-- A code point of a text is its lead byte and its continuation bytes, and is not overlong. -/
theorem exists_lead_of_utf8Bytes {c : Nat} (hc : c ≤ 0x10FFFF) :
    ∃ b k lo, utf8Lead b = some (k + 1, c / 64 ^ k, lo) ∧ lo ≤ c ∧ utf8Bytes c = b :: contBytes k c := by
  have hexists (v k lo : Nat) (hv : v < 256) (hlo : lo ≤ c)
      (hlead : ∀ b : Byte, b.toNat = v → utf8Lead b = some (k + 1, c / 64 ^ k, lo)) :
      ∃ b k lo, utf8Lead b = some (k + 1, c / 64 ^ k, lo) ∧ lo ≤ c ∧ utf8Bytes c = b :: contBytes k c := by
    have hb := hlead (BitVec.ofNat 8 v) (by rw [BitVec.toNat_ofNat, Nat.mod_eq_of_lt hv])
    exact ⟨_, k, lo, hb, hlo, utf8Bytes_of_lead hb hlo⟩
  by_cases h1 : c ≤ 0x7F
  · refine hexists c 0 0 (by omega) (Nat.zero_le c) fun b hb => ?_
    rw [utf8Lead, if_pos (by omega), hb, pow_zero, Nat.div_one]
  by_cases h2 : c ≤ 0x7FF
  · refine hexists (0xC0 + c / 64) 1 0x80 (by omega) (by omega) fun b hb => ?_
    rw [utf8Lead, if_neg (by omega), if_pos (by omega), hb, Nat.add_sub_cancel_left, pow_one]
  by_cases h3 : c ≤ 0xFFFF
  · refine hexists (0xE0 + c / 4096) 2 0x800 (by omega) (by omega) fun b hb => ?_
    rw [utf8Lead, if_neg (by omega), if_neg (by omega), if_pos (by omega), hb, Nat.add_sub_cancel_left]
    rfl
  · refine hexists (0xF0 + c / 262144) 3 0x10000 (by omega) (by omega) fun b hb => ?_
    rw [utf8Lead, if_neg (by omega), if_neg (by omega), if_neg (by omega), if_pos (by omega), hb,
      Nat.add_sub_cancel_left]
    rfl

theorem length_contBytes (k c : Nat) : (contBytes k c).length = k := by
  induction k with
  | zero => rfl
  | succ k ih => rw [contBytes, List.length_cons, ih]

theorem utf8Lead_succ {b : Byte} {n hi lo : Nat} (h : utf8Lead b = some (n, hi, lo)) : ∃ k, n = k + 1 := by
  refine Nat.exists_eq_succ_of_ne_zero ?_
  rintro rfl
  unfold utf8Lead at h
  split_ifs at h <;> cases h

/-! ## Code-point arrays (R129) -/

theorem codePointBytes_eq_beBytes {c : Nat} (hc : c < 2 ^ 32) : codePointBytes c = beBytes c 4 := by
  have hbytes := beBytes_four (BitVec.ofNat 32 c)
  rw [BitVec.toNat_ofNat, Nat.mod_eq_of_lt hc] at hbytes
  exact hbytes.symm

theorem textOf_eq {cps : List Nat} (htext : Text cps) : textOf cps = cps.flatMap codePointBytes :=
  List.flatMap_congr fun c hc => (codePointBytes_eq_beBytes ((htext c hc).trans_lt (by decide))).symm

theorem length_flatMap_codePointBytes (cps : List Nat) : (cps.flatMap codePointBytes).length = 4 * cps.length := by
  induction cps with
  | nil => rfl
  | cons c cps ih => rw [List.flatMap_cons, List.length_append, ih, List.length_cons, Nat.mul_succ, Nat.add_comm]; rfl

theorem codePoints_flatMap {cps : List Nat} (htext : Text cps) : codePoints (cps.flatMap codePointBytes) = cps := by
  induction cps with
  | nil => rfl
  | cons x cps ih =>
    obtain ⟨hx, hcps⟩ := List.forall_mem_cons.mp htext
    have hlt : x < 2 ^ 32 := hx.trans_lt (by decide)
    obtain ⟨a, b, c, d, hbytes, hword⟩ := exists_beBytes_four x hlt
    rw [List.flatMap_cons, codePointBytes_eq_beBytes hlt, hbytes, ← hword]
    exact congrArg _ (ih hcps)

theorem word_mem_codePoints : ∀ (bs : List Byte) (q : Nat), 4 * q + 3 < bs.length → word bs q ∈ codePoints bs
  | [], q, hq | [_], q, hq | [_, _], q, hq | [_, _, _], q, hq => by
    simp only [List.length_cons, List.length_nil] at hq
    omega
  | a :: b :: c :: d :: bs, 0, _ => by
    rw [word_zero, codePoints]
    exact List.mem_cons_self
  | a :: b :: c :: d :: bs, q + 1, hq => by
    simp only [List.length_cons] at hq
    rw [word_succ, codePoints]
    exact List.mem_cons_of_mem _ (word_mem_codePoints bs q (by omega))

end Sys2Proof.Machine
end

section
/-! PROOFS. U8E writes the UTF-8 bytes of its code points, and U8D accepts exactly those bytes
(spec/42_codecs.md R129 to R132). -/

open Sys2Proof.Spec

namespace Sys2Proof.Machine

/-! ## U8E (R129, R131) -/

theorem encodeText_text {cps : List Nat} (htext : Text cps) :
    encodeText (cps.flatMap codePointBytes) = .ok (cps.flatMap utf8) := by
  have hany : ¬ (cps.any fun c => c > 0x10FFFF) = true := by
    rw [Text] at htext
    simpa using htext
  rw [encodeText, length_flatMap_codePointBytes, if_neg (by omega), codePoints_flatMap htext, utf8Encode,
    if_neg hany, flatMap_utf8 htext]

theorem encodeText_length {bs : List Byte} (hlen : bs.length % 4 ≠ 0) : encodeText bs = .error .encoding :=
  if_pos hlen

theorem encodeText_codePoint {bs : List Byte} {q : Nat} (hq : 4 * q + 3 < bs.length) (hword : word bs q > 0x10FFFF) :
    encodeText bs = .error .encoding := by
  rw [encodeText]
  split
  case isTrue => rfl
  case isFalse =>
    exact if_pos (List.any_eq_true.mpr ⟨_, word_mem_codePoints bs q hq, decide_eq_true hword⟩)

/-- Settles O45: the text, the length and the code point decide what `encodeText` gives. -/
theorem u8eResult : Obligations.U8eResult := by
  refine fun s bs hin => ⟨?_, fun hlen => codec_failed hin (encodeText_length hlen),
    fun q hq hword => codec_failed hin (encodeText_codePoint hq hword)⟩
  rintro cps htext rfl
  exact codec_delivers hin (encodeText_text htext)

/-! ## U8D (R130, R132) -/

theorem utf8Head_cons_eq_some_iff (b : Byte) (bs rest : List Byte) (c : Nat) :
    utf8Head (b :: bs) = some (c, rest) ↔ ∃ k hi lo, utf8Lead b = some (k + 1, hi, lo) ∧ k ≤ bs.length ∧
      utf8Continue (bs.take k) hi = some c ∧ lo ≤ c ∧ c ≤ 0x10FFFF ∧ bs.drop k = rest := by
  rw [utf8Head]
  split
  case h_1 hlead => simp [hlead]
  case h_2 n hi lo hlead =>
    obtain ⟨k, rfl⟩ := utf8Lead_succ hlead
    simp only [Nat.add_sub_cancel, Option.ite_none_left_eq_some]
    constructor
    · rintro ⟨hk, hround⟩
      cases hcont : utf8Continue (bs.take k) hi with
      | none => simp [hcont] at hround
      | some c' =>
        simp only [hcont, Option.ite_none_left_eq_some, Option.some_inj, Prod.mk.injEq] at hround
        obtain ⟨hrange, rfl, rfl⟩ := hround
        exact ⟨k, hi, lo, hlead, by omega, hcont, by omega, by omega, rfl⟩
    · rintro ⟨k', hi', lo', hlead', hk, hcont, hlo, hc, rfl⟩
      cases hlead.symm.trans hlead'
      simp only [hcont]
      exact ⟨by omega, if_neg (by omega)⟩

/-- One round of the decoder takes exactly the bytes of one code point (R130). -/
theorem utf8Head_eq_some_iff (bs rest : List Byte) (c : Nat) :
    utf8Head bs = some (c, rest) ↔ c ≤ 0x10FFFF ∧ bs = utf8Bytes c ++ rest := by
  constructor
  · intro h
    cases bs with
    | nil => cases h
    | cons b bs =>
      obtain ⟨k, hi, lo, hlead, hk, hcont, hlo, hc, rfl⟩ := (utf8Head_cons_eq_some_iff ..).mp h
      obtain ⟨htake, rfl⟩ := (utf8Continue_eq_some_iff ..).mp hcont
      rw [List.length_take_of_le hk] at htake hlead
      exact ⟨hc, by rw [utf8Bytes_of_lead hlead hlo, List.cons_append, ← htake, List.take_append_drop]⟩
  · rintro ⟨hc, rfl⟩
    obtain ⟨b, k, lo, hlead, hlo, hbytes⟩ := exists_lead_of_utf8Bytes hc
    have hlen := length_contBytes k c
    rw [hbytes, List.cons_append, utf8Head_cons_eq_some_iff]
    refine ⟨k, _, lo, hlead, by rw [List.length_append]; omega, ?_, hlo, hc, List.drop_left' hlen⟩
    rw [List.take_left' hlen, utf8Continue_eq_some_iff, hlen]
    exact ⟨rfl, rfl⟩

theorem utf8Bytes_ne_nil {c : Nat} (hc : c ≤ 0x10FFFF) : utf8Bytes c ≠ [] := by
  obtain ⟨b, k, lo, -, -, hbytes⟩ := exists_lead_of_utf8Bytes hc
  rw [hbytes]
  nofun

theorem utf8DecodeLoop_succ_eq_some_iff (fuel : Nat) (b : Byte) (bs : List Byte) (cps : List Nat) :
    utf8DecodeLoop (fuel + 1) (b :: bs) = some cps ↔ ∃ c rest cps', utf8Head (b :: bs) = some (c, rest) ∧
      utf8DecodeLoop fuel rest = some cps' ∧ c :: cps' = cps := by
  rw [utf8DecodeLoop]
  cases utf8Head (b :: bs) with
  | none => simp
  | some head =>
    obtain ⟨c, rest⟩ := head
    cases hloop : utf8DecodeLoop fuel rest <;> simp [hloop]

theorem utf8DecodeLoop_nil_eq_some_iff (fuel : Nat) (cps : List Nat) :
    utf8DecodeLoop fuel [] = some cps ↔ Text cps ∧ [] = cps.flatMap utf8Bytes := by
  rw [utf8DecodeLoop, Option.some_inj]
  constructor
  · rintro rfl
    exact ⟨nofun, rfl⟩
  · rintro ⟨htext, hnil⟩
    cases cps with
    | nil => rfl
    | cons c cps =>
      have hne := utf8Bytes_ne_nil (htext c List.mem_cons_self)
      exact absurd (List.append_eq_nil_iff.mp hnil.symm).1 hne

/-- The loop accepts exactly the bytes of the texts (R130). -/
theorem utf8DecodeLoop_eq_some_iff (fuel : Nat) (bs : List Byte) (cps : List Nat) (hfuel : bs.length ≤ fuel) :
    utf8DecodeLoop fuel bs = some cps ↔ Text cps ∧ bs = cps.flatMap utf8Bytes := by
  induction fuel generalizing bs cps with
  | zero =>
    obtain rfl := List.length_eq_zero_iff.mp (Nat.le_zero.mp hfuel)
    exact utf8DecodeLoop_nil_eq_some_iff 0 cps
  | succ fuel ih =>
    cases bs with
    | nil => exact utf8DecodeLoop_nil_eq_some_iff _ cps
    | cons b bs =>
      have hrest {c : Nat} {rest : List Byte} (hc : c ≤ 0x10FFFF) (hbs : b :: bs = utf8Bytes c ++ rest) :
          rest.length ≤ fuel := by
        have hpos := List.length_pos_of_ne_nil (utf8Bytes_ne_nil hc)
        have hlen := congrArg List.length hbs
        rw [List.length_append] at hlen
        omega
      simp only [utf8DecodeLoop_succ_eq_some_iff, utf8Head_eq_some_iff]
      constructor
      · rintro ⟨c, rest, cps', ⟨hc, hbs⟩, hloop, rfl⟩
        obtain ⟨htext, rfl⟩ := (ih rest cps' (hrest hc hbs)).mp hloop
        exact ⟨List.forall_mem_cons.mpr ⟨hc, htext⟩, hbs⟩
      · rintro ⟨htext, hbs⟩
        cases cps with
        | nil => cases hbs
        | cons c cps =>
          obtain ⟨hc, hcps⟩ := List.forall_mem_cons.mp htext
          exact ⟨c, _, cps, ⟨hc, hbs⟩, (ih _ cps (hrest hc hbs)).mpr ⟨hcps, rfl⟩, rfl⟩

theorem utf8Decode_eq_ok_iff (bs : List Byte) (cps : List Nat) :
    utf8Decode bs = .ok cps ↔ Text cps ∧ bs = cps.flatMap utf8 := by
  have hloop : utf8Decode bs = .ok cps ↔ utf8DecodeLoop bs.length bs = some cps := by
    rw [utf8Decode]
    cases utf8DecodeLoop bs.length bs <;> simp
  rw [hloop, utf8DecodeLoop_eq_some_iff _ _ _ (le_refl _)]
  exact and_congr_right fun htext => by rw [flatMap_utf8 htext]

theorem decodeText_text {cps : List Nat} (htext : Text cps) :
    decodeText (cps.flatMap utf8) = .ok (cps.flatMap codePointBytes) := by
  rw [decodeText, (utf8Decode_eq_ok_iff _ cps).mpr ⟨htext, rfl⟩, ← textOf_eq htext]

theorem decodeText_encoding {bs : List Byte} (hnone : ¬ ∃ cps, Text cps ∧ bs = cps.flatMap utf8) :
    decodeText bs = .error .encoding := by
  have hloop : utf8DecodeLoop bs.length bs = none := by
    rw [Option.eq_none_iff_forall_ne_some]
    intro cps hcps
    exact hnone ⟨cps, (utf8Decode_eq_ok_iff bs cps).mp (by rw [utf8Decode, hcps])⟩
  rw [decodeText, utf8Decode, hloop]

/-- Settles O46: the decoder inverts the encoder on the texts and answers ENCODING elsewhere. -/
theorem u8dResult : Obligations.U8dResult := by
  refine fun s bs hin => ⟨?_, fun hnone => codec_failed hin (decodeText_encoding hnone)⟩
  rintro cps htext rfl
  rw [← length_flatMap_codePointBytes]
  exact codec_delivers hin (decodeText_text htext)

end Sys2Proof.Machine
end

section
/-! PROOFS. A completion with an error commits none of the command's destination writes, whether the word decodes or not
(spec/60_exceptions.md R138; spec/10_state.md R36). -/

namespace Sys2Proof.Machine

/-! ## The words that count draws (R36) -/

theorem countsDraws_iff (w : Word) : countsDraws w = true ↔ opcField w = 0x03#8 ∨ opcField w = 0x14#8 := by
  simp only [countsDraws, Bool.or_eq_true, beq_iff_eq, Opcode.ofCode_eq_some, Opcode.code]

/-- A word that decodes counts draws exactly when its command takes a root. -/
theorem countsDraws_of_decode {w : Word} {i : Instr} (h : decode w = .ok i) : countsDraws w = takesRoot i := by
  rw [countsDraws_eq (opcField_of_decode w i h)]
  cases i <;> rfl

/-! ## Completions of every word (R40 b, R138) -/

/-- A completion runs the decoded command, or it rejects the word. -/
theorem completion_cases {s t : State} (h : completion s = .next t) :
    (∃ i, decode s.cmd = .ok i ∧ exec i s = .next t) ∨ ∃ e, decode s.cmd = .error e ∧ rejectCommand e s = .next t := by
  cases hdecode : decode s.cmd with
  | ok i => exact .inl ⟨i, rfl, completion_ok hdecode ▸ h⟩
  | error e => exact .inr ⟨e, rfl, completion_error hdecode ▸ h⟩

/-- A command that fails commits nothing, but for the draw count of a root command. -/
theorem exec_failed {i : Instr} {s t : State} (h : exec i s = .next t) (hfails : t.errcode ≠ .none) :
    t = { s with
      errcode := t.errcode, done := true, phase := .idle, sqrtIterUsed := t.sqrtIterUsed, entropy := t.entropy } := by
  cases exec_next i s t h with
  | raised | rootFailed => rfl
  | root | number | point | curve | output => exact absurd rfl hfails

/-- A rejected word commits nothing, but for the draw count of a root opcode. -/
theorem rejectCommand_next {e : DecodeError} {s t : State} (h : rejectCommand e s = .next t) :
    t = { s with
      errcode := t.errcode, done := true, phase := .idle, sqrtIterUsed := t.sqrtIterUsed, entropy := t.entropy } := by
  rw [rejectCommand_eq, Host.Outcome.next.injEq] at h
  subst h
  rfl

/-- Every completion accounts for its draws: words that count none leave SQRT_ITER_USED and the entropy source alone, and
the others write the number of draws made, which is 0 for a rejected word (R36, C9). -/
theorem completion_draws {s t : State} (h : completion s = .next t) :
    (countsDraws s.cmd = false → t.sqrtIterUsed = s.sqrtIterUsed ∧ t.entropy = s.entropy) ∧
    (countsDraws s.cmd = true → t.entropy.drawn = s.entropy.drawn + t.sqrtIterUsed.toNat) := by
  obtain ⟨i, hi, hexec⟩ | ⟨e, -, hreject⟩ := completion_cases h
  · rw [countsDraws_of_decode hi]
    obtain ⟨hnone, hroot⟩ := attemptCountIsTheNumberOfDraws i s t hexec
    exact ⟨hnone, fun hcounts => let ⟨_, hdrawn, _⟩ := hroot hcounts; hdrawn⟩
  · rw [rejectCommand_eq, Host.Outcome.next.injEq] at hreject
    subst hreject
    exact ⟨fun hcounts => by simp [hcounts], fun hcounts => by simp [hcounts]⟩

/-- Settles O12: neither a failing command nor a rejected word commits anything, and the draw count is accounted for by
every completion, by the opcode of the word. -/
theorem failingCommandCommitsNothing : Obligations.FailingCommandCommitsNothing := by
  intro s t h hfails
  obtain ⟨hnone, hcounts⟩ := completion_draws h
  refine ⟨?_, fun hmodsqrt hyfromx => hnone ?_, fun hroot => hcounts ((countsDraws_iff s.cmd).mpr hroot)⟩
  · obtain ⟨i, -, hexec⟩ | ⟨e, -, hreject⟩ := completion_cases h
    · exact exec_failed hexec hfails
    · exact rejectCommand_next hreject
  · rw [Bool.eq_false_iff, ne_eq, countsDraws_iff]
    exact not_or.mpr ⟨hmodsqrt, hyfromx⟩

end Sys2Proof.Machine
end

section
/-! PROOFS. Resets and bounded liveness: every step consumes the first event of the agenda, so the engine's turn comes
and ends BUSY; a write to CTRL sets IE or resets the engine (spec/10_state.md R28, R40, R44;
spec/70_reset_and_hazards.md R161, R165). -/

namespace Sys2Proof.Machine

/-! ## The agenda of a step (R59) -/

/-- The engine's turn leaves no command running and the agenda alone. -/
theorem engineTurn_idle_agenda {s t : State} (h : engineTurn s = .next t) : t.phase = .idle ∧ t.agenda = s.agenda := by
  obtain ⟨hidle, rfl⟩ | ⟨-, i, -, hexec⟩ | ⟨-, e, -, hreject⟩ := engineTurn_cases h
  · exact ⟨hidle, rfl⟩
  · obtain ⟨hidle, -⟩ := completionEndsTheCommand i s t hexec
    exact ⟨hidle, exec_agenda i s t hexec⟩
  · rw [rejectCommand_eq, Host.Outcome.next.injEq] at hreject
    subst hreject
    exact ⟨rfl, rfl⟩

theorem State.guarded_agenda {s t : State} (h : t.agenda = s.agenda) : (s.guarded t).agenda = s.agenda := by
  obtain heq | heq := s.guarded_cases t
  · rw [heq]
  · rw [heq, h]

theorem State.writeCtrl_agenda (s : State) (v : Word) : (s.writeCtrl v).agenda = s.agenda := by
  cases hsrst : v.getLsbD 0 with
  | true => rw [State.writeCtrl_srst hsrst, State.softReset_agenda]
  | false => rw [State.writeCtrl_noReset hsrst]

theorem State.writeTarget_agenda (s : State) (target : Target) (v : Word) :
    (s.writeTarget target v).agenda = s.agenda := by
  cases target with
  | info | status | outLen | sqrtIterUsed | curve | reserved => rfl
  | ctrl => exact s.writeCtrl_agenda v
  | cmd | srcAddr | srcLen | dstAddr | sqrtIterMax | breg | bmem => exact State.guarded_agenda rfl

/-- No event changes the events still to come. -/
theorem perform_agenda {ev : Event} {s t : State} (h : perform ev s = .next t) : t.agenda = s.agenda := by
  cases ev with
  | read size off =>
    obtain ⟨v, b, rfl⟩ := hostRead_next h
    rfl
  | write size off v =>
    obtain ⟨-, -, rfl⟩ | rfl := hostWrite_next h
    · exact s.writeTarget_agenda (Target.ofOffset off) v
    · rfl
  | engine => exact (engineTurn_idle_agenda h).2
  | powerOn => cases h; exact s.poweredOn_agenda

/-- A step consumes the first event of the agenda. -/
theorem step_agenda {s t : State} (h : step s = .next t) : t.agenda = s.agenda.tail := by
  rw [step_eq_perform] at h
  exact perform_agenda h

/-! ## Bounded liveness (R165) -/

/-- Settles O8, by induction on the agenda: each step consumes one event, and the one after the last is the engine's
turn. -/
theorem runningCommandIsCompletedAtLast : Obligations.RunningCommandIsCompletedAtLast := by
  intro s t hrun
  induction hagenda : s.agenda generalizing s with
  | nil =>
    rw [hagenda] at hrun
    obtain ⟨u, hstep, hdone⟩ := run_succ_next hrun
    cases hdone
    rw [step_of_nil hagenda] at hstep
    obtain ⟨hidle, hempty⟩ := engineTurn_idle_agenda hstep
    exact ⟨hidle, hempty.trans hagenda⟩
  | cons ev rest ih =>
    obtain ⟨u, hstep, hrest⟩ := run_succ_next hrun
    have hu : u.agenda = rest := by rw [step_agenda hstep, hagenda, List.tail_cons]
    rw [hagenda, List.length_cons, ← hu] at hrest
    exact ih u hrest hu

/-! ## Writes to CTRL (R28, R161) -/

/-- A write to CTRL takes effect in IDLE and in BUSY (R26, R28). -/
theorem step_write_ctrl {s : State} {v : Word} {rest : List Event}
    (hagenda : s.agenda = .write .word 0x0004#13 v :: rest) :
    step s = .next (State.writeCtrl { s with agenda := rest } v) :=
  step_write_word hagenda rfl

/-- An event for the engine that finds it in IDLE is only consumed (R160). -/
theorem step_engine_idle {s : State} {rest : List Event} (hidle : s.phase = .idle)
    (hagenda : s.agenda = .engine :: rest) : step s = .next { s with agenda := rest } :=
  (step_of_cons hagenda).trans (engineTurn_idle (s := { s with agenda := rest }) hidle)

/-- Settles O57: SRST chooses between the two writes of CTRL, and after the soft reset the engine is in IDLE, where its
turn completes nothing. -/
theorem ctrlWritesSetIeOrResetTheEngine : Obligations.CtrlWritesSetIeOrResetTheEngine := by
  refine fun s v rest hagenda => ⟨fun hsrst => ?_, fun hsrst => ⟨_, rfl, ?_, fun rest' hrest => ?_⟩⟩
  · rw [step_write_ctrl hagenda, State.writeCtrl_noReset hsrst]
  · rw [step_write_ctrl hagenda, State.writeCtrl_srst hsrst]
    rfl
  · exact step_engine_idle rfl hrest

end Sys2Proof.Machine
end
